-- ==== Sys2Proof/Word.lean ====
section
/-!
DEFINITION. The two word types of the core: a byte (the width of a memory cell, of A, X, Y and P) and a 16-bit
address (the width of PC and of the address space). 00_scope.md section 4; 10_state.md R10 to R13, R22; 20_memory.md R30.
-/

namespace Sys2Proof

/-- A byte: 8 bits, unsigned. -/
abbrev Byte := BitVec 8

/-- An address, and any 16-bit value: 16 bits, unsigned. -/
abbrev Addr := BitVec 16

end Sys2Proof
end

