-- ==== Sys2Proof/Machine/Alu.lean ====
section
/-!
DEFINITION. The sub-block 6502_alu: PASS, INC8, ADD8, ADD16 (41_alu_and_flags.md R90 to R95), with the zero extension and
the little-endian byte order every 16-bit quantity uses (00_scope.md section 5; 20_memory.md R36). All are combinational,
unsigned, and have no carry and no overflow output.
-/

namespace Sys2Proof.Machine

/-- `zext_16(b)`: the byte as a 16-bit value with bits 15 to 8 zero (00_scope.md section 5). -/
def zext16 (b : Byte) : Addr := b.setWidth 16

/-- `{hi, lo}`: the 16-bit value `hi * 256 + lo` (00_scope.md section 5). -/
def wordOf (hi lo : Byte) : Addr := BitVec.ofNat 16 (hi.toNat * 256 + lo.toNat)

/-- `v[7:0]` of a 16-bit value. -/
def lowByte (v : Addr) : Byte := BitVec.ofNat 8 (v.toNat % 256)

/-- `v[15:8]` of a 16-bit value. -/
def highByte (v : Addr) : Byte := BitVec.ofNat 8 (v.toNat / 256)

/-- PASS (41_alu_and_flags.md R91). -/
def pass (v : Byte) : Byte := v

/-- INC8 (41_alu_and_flags.md R92). -/
def inc8 (v : Byte) : Byte := v + 1

/-- ADD8 (41_alu_and_flags.md R93). -/
def add8 (a b : Byte) : Byte := a + b

/-- ADD16 (41_alu_and_flags.md R94). -/
def add16 (a b : Addr) : Addr := a + b

end Sys2Proof.Machine
end

