-- ==== Sys2Proof/Syntax.lean ====
section
/-!
DEFINITION. The syntax of the instruction set: addressing modes, mnemonics, the Operation of the spec (a mnemonic tagged
with one mode), and `Instr`, one constructor for each row of spec/opcode_table.json, carrying the row's operand.
-/

namespace Sys2Proof

/-- The closed set of addressing modes (40_addressing_modes.md R81). -/
inductive Mode where
  | immediate
  | zeroPage
  | zeroPageX
  | zeroPageY
  | absolute
  | absoluteX
  | absoluteY
  | indirectX
  | indirectY
  | none
  deriving DecidableEq, Repr

/-- The closed set of mnemonics (00_scope.md R3). -/
inductive Mnemonic where
  | lda
  | tax
  | inx
  | brk
  deriving DecidableEq, Repr

/-- The Operation: a mnemonic with exactly one addressing-mode tag (30_encoding.md R54, R56). -/
structure Operation where
  mnemonic : Mnemonic
  mode : Mode
  deriving DecidableEq, Repr

/-- The instructions, one constructor for each row of the decode table (30_encoding.md R55), in the table's order.
A two-byte operand is given assembled, `hi * 256 + lo` (30_encoding.md R53). -/
inductive Instr where
  /-- BRK, 0x00 (44_system_brk.md R115). -/
  | brk
  /-- LDA (d8,X), 0xA1 (42_load_lda.md R107). -/
  | ldaIndirectX (d8 : Byte)
  /-- LDA d8, 0xA5 (42_load_lda.md R102). -/
  | ldaZeroPage (d8 : Byte)
  /-- LDA #d8, 0xA9 (42_load_lda.md R101). -/
  | ldaImmediate (d8 : Byte)
  /-- TAX, 0xAA (43_register_tax_inx.md R110). -/
  | tax
  /-- LDA a16, 0xAD (42_load_lda.md R104). -/
  | ldaAbsolute (a16 : Addr)
  /-- LDA (d8),Y, 0xB1 (42_load_lda.md R108). -/
  | ldaIndirectY (d8 : Byte)
  /-- LDA d8,X, 0xB5 (42_load_lda.md R103). -/
  | ldaZeroPageX (d8 : Byte)
  /-- LDA a16,Y, 0xB9 (42_load_lda.md R106). -/
  | ldaAbsoluteY (a16 : Addr)
  /-- LDA a16,X, 0xBD (42_load_lda.md R105). -/
  | ldaAbsoluteX (a16 : Addr)
  /-- INX, 0xE8 (43_register_tax_inx.md R111). -/
  | inx
  deriving DecidableEq, Repr

/-- The Operation an instruction stands for: its row's mnemonic and mode (30_encoding.md R55). -/
def Instr.operation : Instr → Operation
  | .brk => ⟨.brk, .none⟩
  | .ldaIndirectX _ => ⟨.lda, .indirectX⟩
  | .ldaZeroPage _ => ⟨.lda, .zeroPage⟩
  | .ldaImmediate _ => ⟨.lda, .immediate⟩
  | .tax => ⟨.tax, .none⟩
  | .ldaAbsolute _ => ⟨.lda, .absolute⟩
  | .ldaIndirectY _ => ⟨.lda, .indirectY⟩
  | .ldaZeroPageX _ => ⟨.lda, .zeroPageX⟩
  | .ldaAbsoluteY _ => ⟨.lda, .absoluteY⟩
  | .ldaAbsoluteX _ => ⟨.lda, .absoluteX⟩
  | .inx => ⟨.inx, .none⟩

end Sys2Proof
end

