-- ==== Sys2Proof/WellFormed.lean ====
section
/-!
DEFINITION. What makes an Operation and an instruction well-formed. Every value of d8 and of a 16-bit operand is valid
(30_encoding.md R53), so the only check is that the mnemonic and the mode are a pair of the decode table (R55, R57).
-/

namespace Sys2Proof

/-- The pair is one the decode table has: LDA with a mode other than ZeroPageY and None, and TAX, INX, BRK with None
(30_encoding.md R55, R57). -/
def Operation.wellFormed : Operation → Bool
  | ⟨.lda, .none⟩ => false
  | ⟨.lda, .zeroPageY⟩ => false
  | ⟨.lda, _⟩ => true
  | ⟨.tax, mode⟩ => mode == .none
  | ⟨.inx, mode⟩ => mode == .none
  | ⟨.brk, mode⟩ => mode == .none

/-- An instruction is well-formed when its Operation is. -/
def Instr.wellFormed (i : Instr) : Bool := i.operation.wellFormed

end Sys2Proof
end

