-- ==== Sys2Proof/Decode.lean ====
section
/-!
DEFINITION. The sub-block instruction_decoder: the decode table and `Decode` (30_encoding.md R54, R55), operand lengths
(R52), the decoder of an instruction's bytes (R50, R51, R53), and the encoder written from the same table.
-/

namespace Sys2Proof

/-- One row of the decode table. -/
structure OpcodeRow where
  opcode : Byte
  operation : Operation
  deriving DecidableEq, Repr

/-- The decode table (30_encoding.md R55): eleven bytes, looked up whole. Seven of the bytes and six of the pairings are
the spec's completion, its decision D4 (PRESUMED, log entry 3). -/
def opcodeTable : List OpcodeRow :=
  [⟨0x00, ⟨.brk, .none⟩⟩,
   ⟨0xA1, ⟨.lda, .indirectX⟩⟩,
   ⟨0xA5, ⟨.lda, .zeroPage⟩⟩,
   ⟨0xA9, ⟨.lda, .immediate⟩⟩,
   ⟨0xAA, ⟨.tax, .none⟩⟩,
   ⟨0xAD, ⟨.lda, .absolute⟩⟩,
   ⟨0xB1, ⟨.lda, .indirectY⟩⟩,
   ⟨0xB5, ⟨.lda, .zeroPageX⟩⟩,
   ⟨0xB9, ⟨.lda, .absoluteY⟩⟩,
   ⟨0xBD, ⟨.lda, .absoluteX⟩⟩,
   ⟨0xE8, ⟨.inx, .none⟩⟩]

/-- `Decode(b)` (30_encoding.md R54): the Operation of a mapped opcode byte, `none` for each of the other 245. -/
def decodeOpcode (b : Byte) : Option Operation :=
  (opcodeTable.find? fun row => row.opcode == b).map OpcodeRow.operation

/-- `OperandLength(mode)` (30_encoding.md R52). -/
def operandLength : Mode → Nat
  | .none => 0
  | .immediate => 1
  | .zeroPage => 1
  | .zeroPageX => 1
  | .zeroPageY => 1
  | .indirectX => 1
  | .indirectY => 1
  | .absolute => 2
  | .absoluteX => 2
  | .absoluteY => 2

/-- Why bytes are no instruction. -/
inductive DecodeError where
  /-- The first byte has no row in the decode table (30_encoding.md R58). -/
  | unknownOpcode (opcode : Byte)
  /-- The opcode's Operation is no pair an instruction exists for; the table of R55 has none such (R57). -/
  | illTagged (operation : Operation)
  /-- The bytes end before the instruction does. -/
  | truncated
  deriving DecidableEq, Repr

/-- The instruction of an Operation and its operand bytes, with the bytes that follow (30_encoding.md R51, R53). -/
def decodeOperand : Operation → List Byte → Except DecodeError (Instr × List Byte)
  | ⟨.brk, .none⟩, rest => .ok (.brk, rest)
  | ⟨.tax, .none⟩, rest => .ok (.tax, rest)
  | ⟨.inx, .none⟩, rest => .ok (.inx, rest)
  | ⟨.lda, .immediate⟩, d8 :: rest => .ok (.ldaImmediate d8, rest)
  | ⟨.lda, .zeroPage⟩, d8 :: rest => .ok (.ldaZeroPage d8, rest)
  | ⟨.lda, .zeroPageX⟩, d8 :: rest => .ok (.ldaZeroPageX d8, rest)
  | ⟨.lda, .indirectX⟩, d8 :: rest => .ok (.ldaIndirectX d8, rest)
  | ⟨.lda, .indirectY⟩, d8 :: rest => .ok (.ldaIndirectY d8, rest)
  | ⟨.lda, .absolute⟩, lo :: hi :: rest => .ok (.ldaAbsolute (Machine.wordOf hi lo), rest)
  | ⟨.lda, .absoluteX⟩, lo :: hi :: rest => .ok (.ldaAbsoluteX (Machine.wordOf hi lo), rest)
  | ⟨.lda, .absoluteY⟩, lo :: hi :: rest => .ok (.ldaAbsoluteY (Machine.wordOf hi lo), rest)
  | op, _ => if op.wellFormed then .error .truncated else .error (.illTagged op)

/-- The decoder of an instruction's bytes: total, the opcode byte first, rejecting by name (30_encoding.md R50, R54). -/
def decode : List Byte → Except DecodeError (Instr × List Byte)
  | [] => .error .truncated
  | opcode :: rest =>
    match decodeOpcode opcode with
    | some op => decodeOperand op rest
    | none => .error (.unknownOpcode opcode)

/-- The bytes of an instruction: its opcode byte and its operand bytes, low byte first (30_encoding.md R51, R55). -/
def encode : Instr → List Byte
  | .brk => [0x00]
  | .ldaIndirectX d8 => [0xA1, d8]
  | .ldaZeroPage d8 => [0xA5, d8]
  | .ldaImmediate d8 => [0xA9, d8]
  | .tax => [0xAA]
  | .ldaAbsolute a16 => [0xAD, Machine.lowByte a16, Machine.highByte a16]
  | .ldaIndirectY d8 => [0xB1, d8]
  | .ldaZeroPageX d8 => [0xB5, d8]
  | .ldaAbsoluteY a16 => [0xB9, Machine.lowByte a16, Machine.highByte a16]
  | .ldaAbsoluteX a16 => [0xBD, Machine.lowByte a16, Machine.highByte a16]
  | .inx => [0xE8]

/-- The three bytes, the longest instruction's length (30_encoding.md R50), of an instruction whose table bits are `w`:
byte 0 is the least significant, and every bit from `nbits` up is 0. -/
def bytesOfTableWord (nbits w : Nat) : List Byte :=
  let bits := w % 2 ^ nbits
  [BitVec.ofNat 8 bits, BitVec.ofNat 8 (bits / 256), BitVec.ofNat 8 (bits / 65536)]

/-- The instruction the decoder reads from an instruction whose bits are `w`, numbered as spec/opcode_table.json
numbers them. -/
def decodeTableWord (nbits w : Nat) : Option Instr :=
  match decode (bytesOfTableWord nbits w) with
  | .ok (i, _) => some i
  | .error _ => none

end Sys2Proof
end

