-- ==== Sys2Proof/Machine/Memory.lean ====
section
/-!
DEFINITION. The sub-block memory_bus_controller: the 65536-byte array and its five operations read, readWord, write,
writeWord and load (20_memory.md R30 to R36). The array is a list of (address, byte) pairs in one canonical form; what
an unlisted address reads as is `unlistedByte`.
-/

namespace Sys2Proof.Machine

/-- The byte array M (20_memory.md R30), as the list of its cells that differ from `unlistedByte`, addresses rising. -/
abbrev Memory := List Host.Cell

/-- What an address the list does not name reads as. The spec gives no power-on contents (20_memory.md R41) and every
array of 65536 bytes has its list, so this byte only fixes which array the EMPTY list is (DESIGN CHOICE, log entry 1). -/
def unlistedByte : Byte := 0xFF

/-- The byte listed at an address, if one is. -/
def Memory.lookup : Memory → Nat → Option Byte
  | [], _ => none
  | (k, v) :: rest, n => if k = n then some v else Memory.lookup rest n

/-- A pair put in its place by address; the address is not listed yet. -/
def Memory.insert : Memory → Nat → Byte → Memory
  | [], n, v => [(n, v)]
  | (k, w) :: rest, n, v => if n < k then (n, v) :: (k, w) :: rest else (k, w) :: Memory.insert rest n v

/-- The list without an address. -/
def Memory.erase : Memory → Nat → Memory
  | [], _ => []
  | (k, w) :: rest, n => if k = n then Memory.erase rest n else (k, w) :: Memory.erase rest n

/-- `MemRead(addr, 1)` (20_memory.md R31). -/
def Memory.read (m : Memory) (a : Addr) : Byte := (Memory.lookup m a.toNat).getD unlistedByte

/-- `MemWrite(addr, 1, v)` (20_memory.md R32). Writing `unlistedByte` leaves the address unlisted. -/
def Memory.write (m : Memory) (a : Addr) (v : Byte) : Memory :=
  if v = unlistedByte then Memory.erase m a.toNat
  else Memory.insert (Memory.erase m a.toNat) a.toNat v

/-- `MemRead(addr, 2)`: little-endian, the second address modulo 65536 (20_memory.md R33). -/
def Memory.readWord (m : Memory) (a : Addr) : Addr := wordOf (Memory.read m (add16 a 1)) (Memory.read m a)

/-- `MemWrite(addr, 2, v)`: little-endian, the second address modulo 65536 (20_memory.md R34). -/
def Memory.writeWord (m : Memory) (a : Addr) (v : Addr) : Memory :=
  Memory.write (Memory.write m a (lowByte v)) (add16 a 1) (highByte v)

/-- The copy of `BusLoad`: bytes at ascending addresses (20_memory.md R35). The range test is `State.busLoad`'s. -/
def Memory.copy : Memory → Addr → List Byte → Memory
  | m, _, [] => m
  | m, a, b :: rest => Memory.copy (Memory.write m a b) (add16 a 1) rest

/-- The canonical form of a list whose addresses are at least `low`. -/
def Memory.wfFrom : Nat → Memory → Bool
  | _, [] => true
  | low, (k, v) :: rest => decide (low ≤ k) && decide (k < 65536) && decide (v ≠ unlistedByte) && Memory.wfFrom (k + 1) rest

/-- The canonical form: addresses strictly rising and below 65536, no cell equal to what an unlisted address reads as. -/
def Memory.wf (m : Memory) : Bool := Memory.wfFrom 0 m

/-- The reset-vector address (20_memory.md R40). -/
def resetVector : Addr := 0xFFFC

end Sys2Proof.Machine
end

