-- ==== Sys2Proof/Machine/State.lean ====
section
/-!
DEFINITION. The state of the core: the register file, the run state, the fault latch and memory (10_state.md section 1),
as plain data; the faults and refusals a step can end in; the state at power-on and the state right after reset.
-/

namespace Sys2Proof.Machine

/-- The run state (10_state.md R23). -/
inductive RunState where
  | idle
  | running
  | halted
  deriving DecidableEq, Repr

/-- The three fatal errors (60_exceptions.md R140). The fault latch holds one of them (10_state.md R24), and a step of a
core whose latch is set ends in the latched one (R145). -/
inductive Fault where
  /-- Raised by the dispatch step of an instruction cycle on an opcode byte with no row in the decode table; names the
  byte and the address it was fetched from (60_exceptions.md R141). Safe: the core stops for good, as the spec says. -/
  | unknownOpcode (opcode : Byte) (address : Addr)
  /-- Raised by the resolver when asked to resolve None (40_addressing_modes.md R80, 60_exceptions.md R142); no decoded
  instruction can raise it. Safe: the core stops for good, as the spec says. -/
  | unsupportedAddressingMode (mode : Mode)
  /-- Raised by a host's load whose offset plus length exceeds 65536 (60_exceptions.md R143). Safe: the core stops for
  good, as the spec says. -/
  | loadOutOfRange (offset : Addr) (length : Nat)
  deriving DecidableEq, Repr

/-- What the model refuses. -/
inductive Refusal where
  /-- An instruction without a meaning: raised by no arm of `exec`. Safe. -/
  | notModelled (mnemonic : String)
  /-- Run, single step or a register view before the first reset: the spec refuses them (10_state.md R28,
  45_instruction_cycle.md R129, R130). Raised by `step` and by the host's operations. Safe. -/
  | notReset
  /-- `loadAndRun` in Running, between two single steps: the host table allows it in Idle and Halted only
  (70_reset_and_hazards.md R168). Raised by `hostLoadAndRunAt`; the state is left as it was (log entry 18). Safe. -/
  | notAtRest
  deriving DecidableEq, Repr

/-- The state of the core: every element of 10_state.md section 1, and `wasReset`, the model's own (log entry 5). -/
structure State where
  /-- A, the accumulator (R10). -/
  a : Byte
  /-- X, index register X (R11). -/
  x : Byte
  /-- Y, index register Y (R12). -/
  y : Byte
  /-- P, the status byte (R13): bit 0 C, 1 Z, 2 I, 3 D, 4 B, 5 U, 6 V, 7 N. -/
  p : Byte
  /-- PC, the program counter (R22). -/
  pc : Addr
  /-- The run state (R23). -/
  runState : RunState
  /-- The fault latch (R24); `none` is the spec's None. -/
  faultLatch : Option Fault
  /-- Whether a reset has been performed since power-on (R28). -/
  wasReset : Bool
  /-- M, memory (20_memory.md R30). -/
  mem : Memory
  deriving DecidableEq, Repr

/-- The state at power-on (70_reset_and_hazards.md R163). The registers have no value then and the memory holds MEM_INIT,
of which nothing is assumed: both are arguments. -/
def State.powerOn (a x y p : Byte) (pc : Addr) (memInit : Memory) : State :=
  { a := a, x := x, y := y, p := p, pc := pc, runState := .idle, faultLatch := none, wasReset := false, mem := memInit }

/-- The state right after reset, memory with nothing listed (70_reset_and_hazards.md R160; log entries 1 and 2). -/
def State.reset : State :=
  { a := 0, x := 0, y := 0, p := 0, pc := Memory.readWord [] resetVector,
    runState := .idle, faultLatch := none, wasReset := true, mem := [] }

end Sys2Proof.Machine
end

