-- ==== Sys2Proof/Machine/Flags.lean ====
section
/-!
DEFINITION. The status byte's named flags (10_state.md R13 to R21) and the sub-block flag_generator, `SetZN`
(41_alu_and_flags.md R96 to R98).
-/

namespace Sys2Proof.Machine

/-- The eight flags of P. -/
inductive Flag where
  | carry
  | zero
  | interruptDisable
  | decimalMode
  | brk
  | unused
  | overflow
  | negative
  deriving DecidableEq, Repr

/-- A flag's bit in P (10_state.md R13; the spec's decision D2: log entry 4). -/
def Flag.bit : Flag → Nat
  | .carry => 0
  | .zero => 1
  | .interruptDisable => 2
  | .decimalMode => 3
  | .brk => 4
  | .unused => 5
  | .overflow => 6
  | .negative => 7

/-- A flag of a status byte. -/
def flagOf (p : Byte) (f : Flag) : Bool := p.getLsbD f.bit

/-- A status byte with one flag written and the other seven kept. -/
def withFlag (p : Byte) (f : Flag) (value : Bool) : Byte :=
  let mask : Byte := BitVec.ofNat 8 (2 ^ f.bit)
  if value then p ||| mask else p &&& ~~~mask

/-- `SetZN(v)` on a status byte (41_alu_and_flags.md R96): Z from `v = 0`, N from bit 7, both written each time. -/
def setZN (p : Byte) (v : Byte) : Byte :=
  withFlag (withFlag p .zero (decide (v = 0))) .negative (v.getLsbD 7)

/-- A flag of the state. -/
def State.flag (s : State) (f : Flag) : Bool := flagOf s.p f

end Sys2Proof.Machine
end

