-- ==== Sys2Proof/Machine/Ops.lean ====
section
/-!
DEFINITION. The named operations over the state: register writes, `SetZN` on the state, raising a fault, the reset
operation and the bus load. The hardware has no trap entry and no trap return (60_exceptions.md R149, R150): what an
exception does here is `State.raise`, and nothing returns from it.
-/

namespace Sys2Proof.Machine

/-- `A <- v`. -/
def State.writeA (s : State) (v : Byte) : State := { s with a := v }

/-- `X <- v`. -/
def State.writeX (s : State) (v : Byte) : State := { s with x := v }

/-- `P <- v`. -/
def State.writeP (s : State) (v : Byte) : State := { s with p := v }

/-- `PC <- v`. -/
def State.writePc (s : State) (v : Addr) : State := { s with pc := v }

/-- `run_state <- r`. -/
def State.writeRunState (s : State) (r : RunState) : State := { s with runState := r }

/-- The memory replaced by one a bus operation has made. -/
def State.writeMem (s : State) (m : Memory) : State := { s with mem := m }

/-- `SetZN(v)` (41_alu_and_flags.md R96). -/
def State.setZN (s : State) (v : Byte) : State := s.writeP (Machine.setZN s.p v)

/-- `raise <Fault>(info)`: the fault latch takes the fault; the first one raised is kept (60_exceptions.md R145, R147). -/
def State.raise (s : State) (f : Fault) : State := { s with faultLatch := some (s.faultLatch.getD f) }

/-- The spec's own number of a fault (60_exceptions.md R140); no program can see it. -/
def faultCode : Fault → Nat
  | .unknownOpcode _ _ => 1
  | .unsupportedAddressingMode _ => 2
  | .loadOutOfRange _ _ => 3

/-- LDA's effect once its byte is read: `A <- PASS(v)`, then `SetZN` from the new A (42_load_lda.md R100). -/
def State.loadA (s : State) (v : Byte) : State :=
  let loaded := s.writeA (pass v)
  loaded.setZN loaded.a

/-- A new X and `SetZN` from the new X: the shape of TAX and INX (43_register_tax_inx.md R110, R111). -/
def State.loadX (s : State) (v : Byte) : State :=
  let loaded := s.writeX v
  loaded.setZN loaded.x

/-- The reset operation `reset()` (70_reset_and_hazards.md R160): registers and flags zeroed, PC from the vector as memory
stands, run state Idle; memory and the fault latch are not written (R161). -/
def State.applyReset (s : State) : State :=
  { s with a := 0, x := 0, y := 0, p := 0, pc := Memory.readWord s.mem resetVector, runState := .idle, wasReset := true }

/-- `BusLoad(offset, bytes)` (20_memory.md R35): the range test on the exact sum, then the copy. -/
def State.busLoad (s : State) (offset : Addr) (bytes : List Byte) : State :=
  if offset.toNat + bytes.length > 65536 then s.raise (.loadOutOfRange offset bytes.length)
  else s.writeMem (Memory.copy s.mem offset bytes)

/-- The engine-level load for a given program origin (70_reset_and_hazards.md R164): the copy, then the vector write; a
refused copy ends the operation (60_exceptions.md R145). -/
def State.engineLoad (s : State) (origin : Addr) (bytes : List Byte) : State :=
  let loaded := s.busLoad origin bytes
  match loaded.faultLatch with
  | some _ => loaded
  | none => loaded.writeMem (Memory.writeWord loaded.mem resetVector origin)

end Sys2Proof.Machine
end

