-- ==== Sys2Proof/Machine/Operands.lean ====
section
/-!
DEFINITION. The sub-block addressing_mode_resolver: the effective address of every addressing mode
(40_addressing_modes.md R70 to R84). `translateMode` is the resolver as the spec states it, reading the operand bytes at PC;
the `address…` functions are its arithmetic on an operand already fetched, which the decoded instructions use too.
-/

namespace Sys2Proof.Machine

/-- `ZpPtrRead(p)`: a little-endian pointer that lies wholly in page zero (40_addressing_modes.md R83). -/
def zpPtrRead (m : Memory) (p : Byte) : Addr :=
  wordOf (Memory.read m (zext16 (add8 p 1))) (Memory.read m (zext16 p))

/-- ZeroPage (R72). -/
def addressZeroPage (d8 : Byte) : Addr := zext16 d8

/-- ZeroPageX (R73): the sum wraps inside page zero. -/
def addressZeroPageX (d8 : Byte) (s : State) : Addr := zext16 (add8 d8 s.x)

/-- ZeroPageY (R74). No row of the decode table uses it (30_encoding.md R57). -/
def addressZeroPageY (d8 : Byte) (s : State) : Addr := zext16 (add8 d8 s.y)

/-- Absolute (R75). -/
def addressAbsolute (a16 : Addr) : Addr := a16

/-- AbsoluteX (R76): X zero-extended, the sum modulo 65536. -/
def addressAbsoluteX (a16 : Addr) (s : State) : Addr := add16 a16 (zext16 s.x)

/-- AbsoluteY (R77). -/
def addressAbsoluteY (a16 : Addr) (s : State) : Addr := add16 a16 (zext16 s.y)

/-- IndirectX (R78): X is added to the pointer's zero-page address. -/
def addressIndirectX (d8 : Byte) (s : State) : Addr := zpPtrRead s.mem (add8 d8 s.x)

/-- IndirectY (R79): Y is added to the pointer's value. -/
def addressIndirectY (d8 : Byte) (s : State) : Addr := add16 (zpPtrRead s.mem d8) (zext16 s.y)

/-- The one-byte operand at PC (R84). -/
def State.operandByte (s : State) : Byte := Memory.read s.mem s.pc

/-- The two-byte operand at PC, little-endian (R75, R84). -/
def State.operandWord (s : State) : Addr := Memory.readWord s.mem s.pc

/-- `Translate(mode)` (R70 to R80), with PC at the byte after the opcode (R84). None fails, naming the mode. -/
def translateMode (mode : Mode) (s : State) : Except Fault Addr :=
  match mode with
  | .immediate => .ok s.pc
  | .zeroPage => .ok (addressZeroPage s.operandByte)
  | .zeroPageX => .ok (addressZeroPageX s.operandByte s)
  | .zeroPageY => .ok (addressZeroPageY s.operandByte s)
  | .absolute => .ok (addressAbsolute s.operandWord)
  | .absoluteX => .ok (addressAbsoluteX s.operandWord s)
  | .absoluteY => .ok (addressAbsoluteY s.operandWord s)
  | .indirectX => .ok (addressIndirectX s.operandByte s)
  | .indirectY => .ok (addressIndirectY s.operandByte s)
  | .none => .error (.unsupportedAddressingMode .none)

/-- LDA from an effective address: the byte read there, loaded into A (42_load_lda.md R100). -/
def State.loadFrom (s : State) (ea : Addr) : State := s.loadA (Memory.read s.mem ea)

end Sys2Proof.Machine
end

