-- ==== Sys2Proof/Machine/Load.lean ====
section
/-!
DEFINITION. The meanings of LDA's eight encodings (42_load_lda.md R100 to R108): the execute step on the decoded operand,
with PC at the byte after the opcode. PC is not written: the default advance is `Machine/Cycle.lean`'s.
-/

namespace Sys2Proof.Machine

/-- LDA immediate (R101): the operand is the data byte itself (30_encoding.md R53). -/
def execLdaImmediate (d8 : Byte) (s : State) : Host.Outcome State Fault Refusal :=
  .next (s.loadA d8)

/-- LDA zero page (R102). -/
def execLdaZeroPage (d8 : Byte) (s : State) : Host.Outcome State Fault Refusal :=
  .next (s.loadFrom (addressZeroPage d8))

/-- LDA zero page indexed by X (R103). -/
def execLdaZeroPageX (d8 : Byte) (s : State) : Host.Outcome State Fault Refusal :=
  .next (s.loadFrom (addressZeroPageX d8 s))

/-- LDA absolute (R104). -/
def execLdaAbsolute (a16 : Addr) (s : State) : Host.Outcome State Fault Refusal :=
  .next (s.loadFrom (addressAbsolute a16))

/-- LDA absolute indexed by X (R105). -/
def execLdaAbsoluteX (a16 : Addr) (s : State) : Host.Outcome State Fault Refusal :=
  .next (s.loadFrom (addressAbsoluteX a16 s))

/-- LDA absolute indexed by Y (R106). -/
def execLdaAbsoluteY (a16 : Addr) (s : State) : Host.Outcome State Fault Refusal :=
  .next (s.loadFrom (addressAbsoluteY a16 s))

/-- LDA indexed indirect (R107). -/
def execLdaIndirectX (d8 : Byte) (s : State) : Host.Outcome State Fault Refusal :=
  .next (s.loadFrom (addressIndirectX d8 s))

/-- LDA indirect indexed (R108). -/
def execLdaIndirectY (d8 : Byte) (s : State) : Host.Outcome State Fault Refusal :=
  .next (s.loadFrom (addressIndirectY d8 s))

end Sys2Proof.Machine
end

