-- ==== Sys2Proof/Machine/Register.lean ====
section
/-!
DEFINITION. The meanings of the register instructions TAX and INX (43_register_tax_inx.md R110, R111): the flags come
from the new X, never from A.
-/

namespace Sys2Proof.Machine

/-- TAX (R110). -/
def execTax (s : State) : Host.Outcome State Fault Refusal :=
  .next (s.loadX (pass s.a))

/-- INX (R111). -/
def execInx (s : State) : Host.Outcome State Fault Refusal :=
  .next (s.loadX (inc8 s.x))

end Sys2Proof.Machine
end

