-- ==== Sys2Proof/Machine/SystemBrk.lean ====
section
/-!
DEFINITION. The meaning of BRK, the halt (44_system_brk.md R115, R116).
-/

namespace Sys2Proof.Machine

/-- BRK (R115): the run state becomes Halted; no register, no flag and no memory cell is written (R116). -/
def execBrk (s : State) : Host.Outcome State Fault Refusal :=
  .next (s.writeRunState .halted)

end Sys2Proof.Machine
end

