-- ==== Sys2Proof/Machine/Dispatch.lean ====
section
/-!
DEFINITION. `exec`: the execute step of a decoded instruction (45_instruction_cycle.md R124), one arm a constructor.
-/

namespace Sys2Proof.Machine

def exec (i : Instr) (s : State) : Host.Outcome State Fault Refusal :=
  match i with
  | .brk => Sys2Proof.Machine.execBrk s
  | .ldaIndirectX d8 => Sys2Proof.Machine.execLdaIndirectX d8 s
  | .ldaZeroPage d8 => Sys2Proof.Machine.execLdaZeroPage d8 s
  | .ldaImmediate d8 => Sys2Proof.Machine.execLdaImmediate d8 s
  | .tax => Sys2Proof.Machine.execTax s
  | .ldaAbsolute a16 => Sys2Proof.Machine.execLdaAbsolute a16 s
  | .ldaIndirectY d8 => Sys2Proof.Machine.execLdaIndirectY d8 s
  | .ldaZeroPageX d8 => Sys2Proof.Machine.execLdaZeroPageX d8 s
  | .ldaAbsoluteY a16 => Sys2Proof.Machine.execLdaAbsoluteY a16 s
  | .ldaAbsoluteX a16 => Sys2Proof.Machine.execLdaAbsoluteX a16 s
  | .inx => Sys2Proof.Machine.execInx s

end Sys2Proof.Machine
end

