-- ==== Sys2Proof/Machine/Cycle.lean ====
section
/-!
DEFINITION. The instruction cycle (45_instruction_cycle.md R120 to R128) with the sub-block
program_counter_increment_logic: the +1 of fetch, the default advance and the test that suppresses it; the single step
(R130); and putting an instruction where the next fetch is.
-/

namespace Sys2Proof.Machine

/-- The bytes from PC on, as many as the longest instruction has, addresses modulo 65536 (30_encoding.md R51, R60). -/
def State.fetchBytes (s : State) : List Byte :=
  [Memory.read s.mem s.pc, Memory.read s.mem (add16 s.pc 1), Memory.read s.mem (add16 s.pc 2)]

/-- The fetch step's effect on the state: PC plus 1 modulo 65536 (R121, R128). -/
def State.fetch (s : State) : State := s.writePc (add16 s.pc 1)

/-- The default advance (R125): PC plus the operand length, if and only if PC still holds the captured value. -/
def defaultAdvance (pcSeen : Addr) (length : Nat) (s : State) : State :=
  if s.pc = pcSeen then s.writePc (add16 s.pc (BitVec.ofNat 16 length)) else s

/-- One instruction cycle (R120) of a running core: fetch, dispatch, capture, execute, advance. A byte without a row ends
it at dispatch with the fault UnknownOpcode, which names the byte and the address it was fetched from (R122;
60_exceptions.md R141). -/
def cycle (s : State) : Host.Outcome State Fault Refusal :=
  match decode s.fetchBytes with
  | .error _ => .next (s.fetch.raise (.unknownOpcode (Memory.read s.mem s.pc) s.pc))
  | .ok (i, _) =>
    match exec i s.fetch with
    | .next t => .next (defaultAdvance s.fetch.pc (operandLength i.operation.mode) t)
    | .fault f => .fault f
    | .refused r => .refused r

/-- The single step (R130; 70_reset_and_hazards.md R162): nothing is accepted once the latch is set (60_exceptions.md
R145), nor before the first reset (10_state.md R28); a halted core makes no cycle and changes nothing; otherwise the
core runs and makes one cycle. -/
def singleStep (s : State) : Host.Outcome State Fault Refusal :=
  match s.faultLatch with
  | some f => .fault f
  | none =>
    if s.wasReset then
      match s.runState with
      | .halted => .next s
      | .idle => cycle (s.writeRunState .running)
      | .running => cycle (s.writeRunState .running)
    else .refused .notReset

/-- The state with bytes stored where the next fetch reads. -/
def State.placeAtPc (s : State) (bytes : List Byte) : State := s.writeMem (Memory.copy s.mem s.pc bytes)

end Sys2Proof.Machine
end

