-- ==== Sys2Proof/Machine/Step.lean ====
section
/-!
DEFINITION. `step`, one single step of the core, and `State.withFetchWord`, which stores an instruction where the next
step fetches (log entry 2 says how a program comes to run).
-/

namespace Sys2Proof.Machine

/-- One step: the single step of 45_instruction_cycle.md R130. -/
def step (s : State) : Host.Outcome State Fault Refusal := singleStep s

/-- The state with the instruction whose table bits are `w` stored at PC. -/
def State.withFetchWord (s : State) (nbits w : Nat) : State := s.placeAtPc (bytesOfTableWord nbits w)

end Sys2Proof.Machine
end

