-- ==== Sys2Proof/Config.lean ====
section
/-!
DEFINITION. What the platform fixes and the spec leaves open. PROGRAM_ORIGIN is a constant with no body, so no proof can
see its value (log entry 8). The other open parameter, MEM_INIT, is an argument of `Machine.State.powerOn`.
-/

namespace Sys2Proof

/-- PROGRAM_ORIGIN, the fixed address at which the engine-level load places a program. OPEN in the spec
(70_reset_and_hazards.md R164; 92_eei_decisions.md D3). -/
opaque Config.programOrigin : Addr

end Sys2Proof
end

