-- ==== Sys2Proof/Machine/Operation.lean ====
section
/-!
DEFINITION. `Execute(op)` as the spec writes it (45_instruction_cycle.md R124, 42_load_lda.md R100): on an Operation, the
mnemonic with its mode tag, LDA asking the resolver for its address. `exec` is the same step on a decoded instruction,
its operand already fetched; this one also says what an Operation tagged with the wrong mode does.
-/

namespace Sys2Proof.Machine

/-- `Execute(op)`. LDA resolves its address, and a mode without a rule raises the resolver's fault (40_addressing_modes.md
R80); TAX, INX and BRK never call the resolver (30_encoding.md R57). -/
def executeOperation (op : Operation) (s : State) : Host.Outcome State Fault Refusal :=
  match op.mnemonic with
  | .lda =>
    match translateMode op.mode s with
    | .ok ea => .next (s.loadFrom ea)
    | .error f => .next (s.raise f)
  | .tax => execTax s
  | .inx => execInx s
  | .brk => execBrk s

end Sys2Proof.Machine
end

