-- ==== Sys2Proof/Machine/HostOps.lean ====
section
/-!
DEFINITION. The host-facing operations of the Execution Engine (70_reset_and_hazards.md R160 to R168;
45_instruction_cycle.md R129, R130). The host acts between steps only (R168). Once the fault latch is set nothing is
accepted, reset included (60_exceptions.md R145): each operation then answers the latched fault.
-/

namespace Sys2Proof.Machine

/-- What the host gets back from an operation that answers a value. -/
inductive Reply (α : Type) where
  | value (v : α)
  | fault (f : Fault)
  | refused (r : Refusal)
  deriving DecidableEq, Repr

/-- What the single step returns to the host (45_instruction_cycle.md R130). -/
inductive StepResult where
  | halted
  | continuing
  deriving DecidableEq, Repr

/-- An operation that is accepted whenever the latch is None, before the first reset too. -/
def State.accept (s : State) (t : State) : Host.Outcome State Fault Refusal :=
  match s.faultLatch with
  | some f => .fault f
  | none => .next t

/-- A value the host may read whenever the latch is None, before the first reset too. -/
def State.reply {α : Type} (s : State) (v : α) : Reply α :=
  match s.faultLatch with
  | some f => .fault f
  | none => .value v

/-- A register's value, which the host may read after a reset only (10_state.md R28). -/
def State.view {α : Type} (s : State) (v : α) : Reply α :=
  match s.faultLatch with
  | some f => .fault f
  | none => if s.wasReset then .value v else .refused .notReset

/-- An operation followed by another on the state it leaves. -/
def andThen (o : Host.Outcome State Fault Refusal) (k : State → Host.Outcome State Fault Refusal) :
    Host.Outcome State Fault Refusal :=
  match o with
  | .next s => k s
  | .fault f => .fault f
  | .refused r => .refused r

/-- `reset()` (70_reset_and_hazards.md R160). -/
def hostReset (s : State) : Host.Outcome State Fault Refusal := s.accept s.applyReset

/-- The engine-level `load(bytes)` at a given program origin (R164). -/
def hostLoadAt (origin : Addr) (bytes : List Byte) (s : State) : Host.Outcome State Fault Refusal :=
  s.accept (s.engineLoad origin bytes)

/-- The engine-level `load(bytes)` (R164), at PROGRAM_ORIGIN. -/
def hostLoad (bytes : List Byte) (s : State) : Host.Outcome State Fault Refusal :=
  hostLoadAt Config.programOrigin bytes s

/-- The bus-level `load(offset, bytes)` (R167; 20_memory.md R35). -/
def hostBusLoad (offset : Addr) (bytes : List Byte) (s : State) : Host.Outcome State Fault Refusal :=
  s.accept (s.busLoad offset bytes)

/-- `memory.write(addr, value)` (R167). -/
def hostWrite (a : Addr) (v : Byte) (s : State) : Host.Outcome State Fault Refusal :=
  s.accept (s.writeMem (Memory.write s.mem a v))

/-- `writeWord(addr, value)` (R167). -/
def hostWriteWord (a : Addr) (v : Addr) (s : State) : Host.Outcome State Fault Refusal :=
  s.accept (s.writeMem (Memory.writeWord s.mem a v))

/-- `run()` with fuel (45_instruction_cycle.md R129, R131): cycles until one returns Halted. A state answered with the
run state not Halted is one whose fuel ran out: the run has not ended. -/
def hostRun : Nat → State → Host.Outcome State Fault Refusal
  | 0, s => .next s
  | fuel + 1, s =>
    match step s with
    | .next t => if t.runState = .halted then .next t else hostRun fuel t
    | .fault f => .fault f
    | .refused r => .refused r

/-- `fetchAndExecuteOne()` (45_instruction_cycle.md R130): the state it leaves, and what the host gets back. -/
def hostSingleStep (s : State) : Host.Outcome (State × Reply StepResult) Fault Refusal :=
  match step s with
  | .next t =>
    match t.faultLatch with
    | some f => .next (t, .fault f)
    | none => .next (t, .value (if t.runState = .halted then .halted else .continuing))
  | .fault f => .fault f
  | .refused r => .refused r

/-- Load, reset, run, in that order and with nothing between them (R165). -/
def loadResetRun (origin : Addr) (bytes : List Byte) (fuel : Nat) (s : State) : Host.Outcome State Fault Refusal :=
  andThen (andThen (hostLoadAt origin bytes s) hostReset) (hostRun fuel)

/-- `loadAndRun(bytes)` at a given program origin (R165), which the host may ask for in Idle and Halted only (R168's host
table): in Running it is refused by name (log entry 18). -/
def hostLoadAndRunAt (origin : Addr) (bytes : List Byte) (fuel : Nat) (s : State) : Host.Outcome State Fault Refusal :=
  match s.faultLatch with
  | some f => .fault f
  | none =>
    match s.runState with
    | .running => .refused .notAtRest
    | .idle => loadResetRun origin bytes fuel s
    | .halted => loadResetRun origin bytes fuel s

/-- `loadAndRun(bytes)` (R165), at PROGRAM_ORIGIN. -/
def hostLoadAndRun (bytes : List Byte) (fuel : Nat) (s : State) : Host.Outcome State Fault Refusal :=
  hostLoadAndRunAt Config.programOrigin bytes fuel s

/-- The view of A (R166). -/
def viewA (s : State) : Reply Byte := s.view s.a

/-- The view of X (R166). -/
def viewX (s : State) : Reply Byte := s.view s.x

/-- The view of Y (R166). -/
def viewY (s : State) : Reply Byte := s.view s.y

/-- The view of the status byte (R166; 10_state.md R13). -/
def viewStatus (s : State) : Reply Byte := s.view s.p

/-- The view of one status bit (R166). -/
def viewFlag (f : Flag) (s : State) : Reply Bool := s.view (s.flag f)

/-- The view of PC (R166). -/
def viewPc (s : State) : Reply Addr := s.view s.pc

/-- `memory.read(addr)` (R167). -/
def hostRead (a : Addr) (s : State) : Reply Byte := s.reply (Memory.read s.mem a)

/-- `readWord(addr)` (R167). -/
def hostReadWord (a : Addr) (s : State) : Reply Addr := s.reply (Memory.readWord s.mem a)

/-- The host operations that can change the state (70_reset_and_hazards.md's host table). -/
inductive HostOp where
  | reset
  | load (origin : Addr) (bytes : List Byte)
  | busLoad (offset : Addr) (bytes : List Byte)
  | write (a : Addr) (v : Byte)
  | writeWord (a : Addr) (v : Addr)
  | singleStep
  | run (fuel : Nat)
  | loadAndRun (origin : Addr) (bytes : List Byte) (fuel : Nat)
  deriving DecidableEq, Repr

/-- The state a host operation leaves (70_reset_and_hazards.md R162, R168's host table). A run with no fuel left is no operation of the
host, so a run makes at least one step. -/
def hostAct (op : HostOp) (s : State) : Host.Outcome State Fault Refusal :=
  match op with
  | .reset => hostReset s
  | .load origin bytes => hostLoadAt origin bytes s
  | .busLoad offset bytes => hostBusLoad offset bytes s
  | .write a v => hostWrite a v s
  | .writeWord a v => hostWriteWord a v s
  | .singleStep => step s
  | .run fuel => hostRun (fuel + 1) s
  | .loadAndRun origin bytes fuel => hostLoadAndRunAt origin bytes (fuel + 1) s

end Sys2Proof.Machine
end

