-- ==== Sys2Proof/Safety.lean ====
section
/-!
DEFINITION. The terms in which claims speak of a run: when the core makes a cycle, when a run has ended, the invariant of
the machine, and what an instruction leaves unchanged.
-/

namespace Sys2Proof.Machine

/-- The core makes an instruction cycle at its next step: the latch is None, a reset has been performed, and the run
state is not Halted (45_instruction_cycle.md R129, R130). -/
abbrev State.Ready (s : State) : Prop :=
  s.faultLatch = none ∧ s.wasReset = true ∧ s.runState ≠ .halted

/-- The end of a run (70_reset_and_hazards.md R170): Halted, and no fault. -/
abbrev State.Ended (s : State) : Prop := s.runState = .halted ∧ s.faultLatch = none

/-- The opcode byte the next cycle fetches. -/
def State.opcode (s : State) : Byte := Memory.read s.mem s.pc

/-- `M[n mod 65536]`, the cell at an address given as a number (00_scope.md section 5). -/
def State.cell (s : State) (n : Nat) : Byte := Memory.read s.mem (BitVec.ofNat 16 n)

/-- `{M[(p + 1) mod 256], M[p mod 256]}` as a number: the pointer held in page zero at `p` (40_addressing_modes.md R83). -/
def State.pointer (s : State) (p : Nat) : Nat := (s.cell ((p + 1) % 256)).toNat * 256 + (s.cell (p % 256)).toNat

/-- The byte is one of the 245 unmapped opcode bytes, by the ranges the spec lists (30_encoding.md R58). -/
abbrev UnmappedOpcode (b : Byte) : Prop :=
  (0x01 ≤ b.toNat ∧ b.toNat ≤ 0xA0) ∨ (0xA2 ≤ b.toNat ∧ b.toNat ≤ 0xA4) ∨ (0xA6 ≤ b.toNat ∧ b.toNat ≤ 0xA8) ∨
  (0xAB ≤ b.toNat ∧ b.toNat ≤ 0xAC) ∨ (0xAE ≤ b.toNat ∧ b.toNat ≤ 0xB0) ∨ (0xB2 ≤ b.toNat ∧ b.toNat ≤ 0xB4) ∨
  (0xB6 ≤ b.toNat ∧ b.toNat ≤ 0xB8) ∨ (0xBA ≤ b.toNat ∧ b.toNat ≤ 0xBC) ∨ (0xBE ≤ b.toNat ∧ b.toNat ≤ 0xE7) ∨
  0xE9 ≤ b.toNat

/-- The flags nothing but reset writes: all but Zero and Negative (41_alu_and_flags.md R98). -/
abbrev Flag.Quiet (f : Flag) : Prop := f ≠ .zero ∧ f ≠ .negative

/-- Every byte of memory reads as before. -/
def SameMemory (s t : State) : Prop := ∀ a : Addr, Memory.read t.mem a = Memory.read s.mem a

/-- Zero and Negative are those of a byte (41_alu_and_flags.md R96). -/
def FlagsOf (t : State) (v : Byte) : Prop :=
  t.flag .zero = decide (v.toNat = 0) ∧ t.flag .negative = decide (128 ≤ v.toNat)

/-- What every instruction leaves unchanged: Y, the six quiet flags, the latch, whether a reset was performed, and every
byte of memory (10_state.md R27). -/
structure CommonFrame (s t : State) : Prop where
  y : t.y = s.y
  quiet : ∀ f : Flag, f.Quiet → t.flag f = s.flag f
  faultLatch : t.faultLatch = s.faultLatch
  wasReset : t.wasReset = s.wasReset
  memory : SameMemory s t

/-- From `s` to `t` the byte `v` was loaded into A, Zero and Negative are those of `v`, and all else but PC and the run
state is as before (42_load_lda.md R100). -/
structure LoadedA (s t : State) (v : Byte) : Prop where
  a : t.a = v
  flags : FlagsOf t v
  x : t.x = s.x
  frame : CommonFrame s t

/-- From `s` to `t` X became `v`, Zero and Negative are those of `v`, and all else but PC and the run state is as before
(43_register_tax_inx.md R110, R111). -/
structure LoadedX (s t : State) (v : Byte) : Prop where
  x : t.x = v
  flags : FlagsOf t v
  a : t.a = s.a
  frame : CommonFrame s t

/-- An execute step that loads A: it answers a next state in which A and the flags are those of `v`, and PC and the run
state are as before. -/
def ExecLoadsA (i : Instr) (s : State) (v : Byte) : Prop :=
  ∃ t, exec i s = .next t ∧ LoadedA s t v ∧ t.pc = s.pc ∧ t.runState = s.runState

/-- A full cycle that loads A: the step answers a next state in which A and the flags are those of `v`, PC has moved by
`length` modulo 65536, and the core is running. -/
def StepLoadsA (s : State) (v : Byte) (length : Nat) : Prop :=
  ∃ t, step s = .next t ∧ LoadedA s t v ∧ t.pc.toNat = (s.pc.toNat + length) % 65536 ∧ t.runState = .running

/-- The invariant of the machine: memory keeps its canonical form, and once a reset has been performed Y is 0, the six
quiet flags are 0, and Zero and Negative are never both 1 (10_state.md R12, R14; 41_alu_and_flags.md R96). -/
structure State.Inv (s : State) : Prop where
  memory : Memory.wf s.mem = true
  y : s.wasReset = true → s.y = 0
  quiet : s.wasReset = true → ∀ f : Flag, f.Quiet → s.flag f = false
  zeroOrNegative : s.wasReset = true → ¬ (s.flag .zero = true ∧ s.flag .negative = true)

end Sys2Proof.Machine
end

