-- ==== Sys2Proof/Certificates/Slice0/Obligations.lean ====
section
/-!
DEFINITION. The statements about the model, each from the rules and sections of spec/ its docstring names.
-/

open Sys2Proof Sys2Proof.Machine

/-! ### Encoding -/

/-- Decoding the bytes of an instruction, whatever follows them, gives the instruction back and leaves what follows
(30_encoding.md sections 1 to 3; seven opcode bytes rest on the spec's decision D4, log entry 3). -/
def Obligations.DecodeOfEncode : Prop :=
  ∀ (i : Instr) (rest : List Byte), decode (encode i ++ rest) = .ok (i, rest)

/-- The decoder drops no bit: bytes that decode to an instruction are that instruction's bytes and what follows
(30_encoding.md sections 1 to 3; log entry 3). -/
def Obligations.EncodeOfDecode : Prop :=
  ∀ (bytes : List Byte) (i : Instr) (rest : List Byte),
    decode bytes = .ok (i, rest) → bytes = encode i ++ rest

/-- Every row of the decode table, written out: its byte, its Operation and its total length (30_encoding.md section 3;
the bytes 0xA1, 0xA5, 0xAD, 0xB1, 0xB5, 0xB9, 0xBD are the spec's decision D4, the lengths its decision D5: log entries
3 and 10). -/
def Obligations.DecodeTableRows : Prop :=
  decodeOpcode 0x00 = some ⟨.brk, .none⟩ ∧ decodeOpcode 0xA1 = some ⟨.lda, .indirectX⟩ ∧
  decodeOpcode 0xA5 = some ⟨.lda, .zeroPage⟩ ∧ decodeOpcode 0xA9 = some ⟨.lda, .immediate⟩ ∧
  decodeOpcode 0xAA = some ⟨.tax, .none⟩ ∧ decodeOpcode 0xAD = some ⟨.lda, .absolute⟩ ∧
  decodeOpcode 0xB1 = some ⟨.lda, .indirectY⟩ ∧ decodeOpcode 0xB5 = some ⟨.lda, .zeroPageX⟩ ∧
  decodeOpcode 0xB9 = some ⟨.lda, .absoluteY⟩ ∧ decodeOpcode 0xBD = some ⟨.lda, .absoluteX⟩ ∧
  decodeOpcode 0xE8 = some ⟨.inx, .none⟩ ∧
  operandLength .none = 0 ∧ operandLength .immediate = 1 ∧ operandLength .zeroPage = 1 ∧
  operandLength .zeroPageX = 1 ∧ operandLength .zeroPageY = 1 ∧ operandLength .indirectX = 1 ∧
  operandLength .indirectY = 1 ∧ operandLength .absolute = 2 ∧ operandLength .absoluteX = 2 ∧
  operandLength .absoluteY = 2

/-- Words written out from the spec's encodings decode to the instructions they stand for (30_encoding.md section 7 and
42_load_lda.md section 2; log entry 3). -/
def Obligations.SpecWordsDecode : Prop :=
  decode [0xA9, 0xC0, 0xAA, 0xE8, 0x00] = .ok (.ldaImmediate 0xC0, [0xAA, 0xE8, 0x00]) ∧
  decode [0xAA, 0xE8, 0x00] = .ok (.tax, [0xE8, 0x00]) ∧ decode [0xE8, 0x00] = .ok (.inx, [0x00]) ∧
  decode [0x00] = .ok (.brk, []) ∧ decode [0xAD, 0x34, 0x12] = .ok (.ldaAbsolute 0x1234, []) ∧
  decode [0xB1, 0x86] = .ok (.ldaIndirectY 0x86, []) ∧ decode [0xEA] = .error (.unknownOpcode 0xEA)

/-- The Operations the decoder can answer are exactly the well-formed ones, so LDA is never tagged None or ZeroPageY
(30_encoding.md section 3 and 92_eei_decisions.md D23, the spec's inference from its table; log entry 3). -/
def Obligations.DecodedOperationsAreTheWellFormed : Prop :=
  ∀ op : Operation, op.wellFormed = true ↔ ∃ b : Byte, decodeOpcode b = some op

/-! ### ALU and flag generator -/

/-- PASS, INC8, ADD8 and ADD16 (41_alu_and_flags.md R91 to R94). -/
def Obligations.AluOperationsWrap : Prop :=
  (∀ v : Byte, pass v = v) ∧
  (∀ v : Byte, (inc8 v).toNat = (v.toNat + 1) % 256) ∧
  (∀ a b : Byte, (add8 a b).toNat = (a.toNat + b.toNat) % 256) ∧
  (∀ a b : Addr, (add16 a b).toNat = (a.toNat + b.toNat) % 65536)

/-- `SetZN(v)` writes Zero and Negative, by the outcome table, and nothing else (41_alu_and_flags.md R96). -/
def Obligations.FlagGeneratorWritesTwoFlags : Prop :=
  ∀ (s : State) (v : Byte),
    FlagsOf (s.setZN v) v ∧ (∀ f : Flag, f.Quiet → (s.setZN v).flag f = s.flag f) ∧
    ¬ ((s.setZN v).flag .zero = true ∧ (s.setZN v).flag .negative = true) ∧
    (s.setZN v).a = s.a ∧ (s.setZN v).x = s.x ∧ (s.setZN v).y = s.y ∧ (s.setZN v).pc = s.pc ∧
    (s.setZN v).runState = s.runState ∧ (s.setZN v).faultLatch = s.faultLatch ∧
    (s.setZN v).wasReset = s.wasReset ∧ (s.setZN v).mem = s.mem

/-! ### Memory-bus controller -/

/-- A write changes its own cell and no other, and no instruction's execute step writes memory (20_memory.md R32). -/
def Obligations.WriteChangesOneCell : Prop :=
  (∀ (m : Memory) (a b : Addr) (v : Byte),
    Memory.read (Memory.write m a v) b = if b = a then v else Memory.read m b) ∧
  (∀ (i : Instr) (s t : State), exec i s = .next t → SameMemory s t)

/-- A word is read low byte first, the second address modulo 65536 (20_memory.md R33). -/
def Obligations.WordReadIsLittleEndian : Prop :=
  ∀ (m : Memory) (a : Addr),
    (Memory.readWord m a).toNat =
      (Memory.read m (BitVec.ofNat 16 ((a.toNat + 1) % 65536))).toNat * 256 + (Memory.read m a).toNat

/-- A word written is the low byte at its address and the high byte at the next, modulo 65536, no other cell changes, and
the word reads back (20_memory.md section 1; the wrap is the spec's inference, log entry 16). -/
def Obligations.WordWriteIsLittleEndian : Prop :=
  ∀ (m : Memory) (a v : Addr),
    (Memory.read (Memory.writeWord m a v) a).toNat = v.toNat % 256 ∧
    (Memory.read (Memory.writeWord m a v) (BitVec.ofNat 16 ((a.toNat + 1) % 65536))).toNat = v.toNat / 256 ∧
    (∀ b : Addr, b ≠ a → b.toNat ≠ (a.toNat + 1) % 65536 →
      Memory.read (Memory.writeWord m a v) b = Memory.read m b) ∧
    Memory.readWord (Memory.writeWord m a v) a = v

/-- A bus load in range puts each byte in its cell and changes no other; it changes nothing but memory (20_memory.md
section 1, load; log entry 14). -/
def Obligations.BusLoadCopiesInRange : Prop :=
  ∀ (s : State) (offset : Addr) (bytes : List Byte), offset.toNat + bytes.length ≤ 65536 →
    (∀ (n : Nat) (h : n < bytes.length), (s.busLoad offset bytes).cell (offset.toNat + n) = bytes[n]) ∧
    (∀ b : Addr, (b.toNat < offset.toNat ∨ offset.toNat + bytes.length ≤ b.toNat) →
      Memory.read (s.busLoad offset bytes).mem b = Memory.read s.mem b) ∧
    s.busLoad offset bytes = { s with mem := (s.busLoad offset bytes).mem }

/-- A load whose offset plus length exceeds 65536, of the bus or of the engine at any origin, latches LoadOutOfRange with
the offset and the length and writes no cell; no step of the core latches it (60_exceptions.md section 1). That no cell is
written is the spec's decision D21 (log entry 14), and that the raise answers a next state whose memory can be read is the
model's reading (log entry 6). -/
def Obligations.LoadOutOfRangeIsTheHostsFault : Prop :=
  (∀ (s : State) (offset : Addr) (bytes : List Byte),
    s.faultLatch = none → 65536 < offset.toNat + bytes.length →
      (∃ t, hostBusLoad offset bytes s = .next t ∧ t.faultLatch = some (.loadOutOfRange offset bytes.length) ∧
        t.mem = s.mem) ∧
      (∃ t, hostLoadAt offset bytes s = .next t ∧ t.faultLatch = some (.loadOutOfRange offset bytes.length) ∧
        t.mem = s.mem)) ∧
  (∀ (s t : State) (offset : Addr) (length : Nat),
    step s = .next t → t.faultLatch ≠ some (.loadOutOfRange offset length))

/-- Two canonical memories that read alike at every address are the same list (20_memory.md section 1: an array of 65536
cells is what its cells hold). -/
def Obligations.EqualReadsAreEqualMemories : Prop :=
  ∀ m m' : Memory, Memory.wf m = true → Memory.wf m' = true →
    (∀ a : Addr, Memory.read m a = Memory.read m' a) → m = m'

/-- Every contents of the 65536 cells, so every MEM_INIT, is some canonical memory: the byte an unlisted address reads as
(the model's choice, log entry 1) rules none out (20_memory.md section 5; 92_eei_decisions.md D12). -/
def Obligations.EveryContentsIsAMemory : Prop :=
  ∀ contents : Addr → Byte, ∃ m : Memory, Memory.wf m = true ∧ ∀ a : Addr, Memory.read m a = contents a

/-! ### Addressing-mode resolver -/

/-- The zero-page pointer read stays in page zero: for 0xFF the high byte comes from 0x0000 (40_addressing_modes.md
R83). -/
def Obligations.ZeroPagePointerStaysInPageZero : Prop :=
  ∀ (m : Memory) (p : Byte),
    (zpPtrRead m p).toNat =
      (Memory.read m (BitVec.ofNat 16 ((p.toNat + 1) % 256))).toNat * 256 +
        (Memory.read m (BitVec.ofNat 16 p.toNat)).toNat

/-- The resolver's result in every mode, for every PC, X, Y and memory (40_addressing_modes.md R71 to R80). -/
def Obligations.ResolverComputesEveryMode : Prop :=
  ∀ (s : State),
    let d8 := (s.cell s.pc.toNat).toNat
    let a16 := (s.cell ((s.pc.toNat + 1) % 65536)).toNat * 256 + (s.cell s.pc.toNat).toNat
    translateMode .immediate s = .ok s.pc ∧
    translateMode .zeroPage s = .ok (BitVec.ofNat 16 d8) ∧
    translateMode .zeroPageX s = .ok (BitVec.ofNat 16 ((d8 + s.x.toNat) % 256)) ∧
    translateMode .zeroPageY s = .ok (BitVec.ofNat 16 ((d8 + s.y.toNat) % 256)) ∧
    translateMode .absolute s = .ok (BitVec.ofNat 16 a16) ∧
    translateMode .absoluteX s = .ok (BitVec.ofNat 16 ((a16 + s.x.toNat) % 65536)) ∧
    translateMode .absoluteY s = .ok (BitVec.ofNat 16 ((a16 + s.y.toNat) % 65536)) ∧
    translateMode .indirectX s = .ok (BitVec.ofNat 16 (s.pointer ((d8 + s.x.toNat) % 256))) ∧
    translateMode .indirectY s = .ok (BitVec.ofNat 16 ((s.pointer d8 + s.y.toNat) % 65536)) ∧
    translateMode .none s = .error (.unsupportedAddressingMode .none)

/-- The fault of the resolver: LDA tagged None latches UnsupportedAddressingMode(None) and changes nothing else, and no
step of the core ever latches it, whatever the memory holds (60_exceptions.md section 1). That the raise answers a next
state, and what else that state holds, is the model's reading of the spec's decision D10 (log entry 6). -/
def Obligations.UnsupportedModeIsNeverReached : Prop :=
  (∀ s : State, s.faultLatch = none →
    executeOperation ⟨.lda, .none⟩ s =
      .next { s with faultLatch := some (.unsupportedAddressingMode .none) }) ∧
  (∀ (s t : State) (mode : Mode), step s = .next t → t.faultLatch ≠ some (.unsupportedAddressingMode mode))

/-! ### The instructions: the execute step, and the full cycle -/

/-- LDA immediate: A and the flags from the operand byte, PC to the next instruction, nothing else (42_load_lda.md
R101). -/
def Obligations.LdaImmediateLoadsItsOperand : Prop :=
  (∀ (d8 : Byte) (s : State), ExecLoadsA (.ldaImmediate d8) s d8) ∧
  (∀ s : State, s.Ready → s.opcode = 0xA9 → StepLoadsA s (s.cell (s.pc.toNat + 1)) 2)

/-- LDA zero page (42_load_lda.md section 2; the byte 0xA5 is the spec's decision D4, log entry 3). -/
def Obligations.LdaZeroPageLoads : Prop :=
  (∀ (d8 : Byte) (s : State), ExecLoadsA (.ldaZeroPage d8) s (s.cell d8.toNat)) ∧
  (∀ s : State, s.Ready → s.opcode = 0xA5 →
    StepLoadsA s (s.cell (s.cell (s.pc.toNat + 1)).toNat) 2)

/-- LDA zero page indexed by X: the sum wraps inside page zero (42_load_lda.md section 2; the byte and the pairing are the
spec's decision D4, log entry 3). -/
def Obligations.LdaZeroPageXLoads : Prop :=
  (∀ (d8 : Byte) (s : State), ExecLoadsA (.ldaZeroPageX d8) s (s.cell ((d8.toNat + s.x.toNat) % 256))) ∧
  (∀ s : State, s.Ready → s.opcode = 0xB5 →
    StepLoadsA s (s.cell (((s.cell (s.pc.toNat + 1)).toNat + s.x.toNat) % 256)) 2)

/-- LDA absolute (42_load_lda.md section 2; the byte and the pairing are the spec's decision D4, log entry 3). -/
def Obligations.LdaAbsoluteLoads : Prop :=
  (∀ (a16 : Addr) (s : State), ExecLoadsA (.ldaAbsolute a16) s (s.cell a16.toNat)) ∧
  (∀ s : State, s.Ready → s.opcode = 0xAD →
    StepLoadsA s (s.cell ((s.cell (s.pc.toNat + 2)).toNat * 256 + (s.cell (s.pc.toNat + 1)).toNat)) 3)

/-- LDA absolute indexed by X: the sum wraps at 16 bits (42_load_lda.md section 2; the byte and the pairing are the spec's
decision D4, log entry 3). -/
def Obligations.LdaAbsoluteXLoads : Prop :=
  (∀ (a16 : Addr) (s : State), ExecLoadsA (.ldaAbsoluteX a16) s (s.cell ((a16.toNat + s.x.toNat) % 65536))) ∧
  (∀ s : State, s.Ready → s.opcode = 0xBD →
    StepLoadsA s (s.cell (((s.cell (s.pc.toNat + 2)).toNat * 256 + (s.cell (s.pc.toNat + 1)).toNat + s.x.toNat) %
      65536)) 3)

/-- LDA absolute indexed by Y, for every Y (42_load_lda.md section 2; the byte and the pairing are the spec's decision D4,
log entry 3). -/
def Obligations.LdaAbsoluteYLoads : Prop :=
  (∀ (a16 : Addr) (s : State), ExecLoadsA (.ldaAbsoluteY a16) s (s.cell ((a16.toNat + s.y.toNat) % 65536))) ∧
  (∀ s : State, s.Ready → s.opcode = 0xB9 →
    StepLoadsA s (s.cell (((s.cell (s.pc.toNat + 2)).toNat * 256 + (s.cell (s.pc.toNat + 1)).toNat + s.y.toNat) %
      65536)) 3)

/-- LDA indexed indirect: X is added to the pointer's address, inside page zero (42_load_lda.md section 2; the byte and
the pairing are the spec's decision D4, log entry 3). -/
def Obligations.LdaIndirectXLoads : Prop :=
  (∀ (d8 : Byte) (s : State),
    ExecLoadsA (.ldaIndirectX d8) s (s.cell (s.pointer ((d8.toNat + s.x.toNat) % 256)))) ∧
  (∀ s : State, s.Ready → s.opcode = 0xA1 →
    StepLoadsA s (s.cell (s.pointer (((s.cell (s.pc.toNat + 1)).toNat + s.x.toNat) % 256))) 2)

/-- LDA indirect indexed: Y is added to the pointer's value, at 16 bits (42_load_lda.md section 2; the byte and the
pairing are the spec's decision D4, log entry 3). -/
def Obligations.LdaIndirectYLoads : Prop :=
  (∀ (d8 : Byte) (s : State),
    ExecLoadsA (.ldaIndirectY d8) s (s.cell ((s.pointer d8.toNat + s.y.toNat) % 65536))) ∧
  (∀ s : State, s.Ready → s.opcode = 0xB1 →
    StepLoadsA s (s.cell ((s.pointer (s.cell (s.pc.toNat + 1)).toNat + s.y.toNat) % 65536)) 2)

/-- TAX: X and the flags from A, PC to the next byte, nothing else (43_register_tax_inx.md R110). -/
def Obligations.TaxCopiesTheAccumulator : Prop :=
  (∀ s : State, ∃ t, exec .tax s = .next t ∧ LoadedX s t s.a ∧ t.pc = s.pc ∧ t.runState = s.runState) ∧
  (∀ s : State, s.Ready → s.opcode = 0xAA →
    ∃ t, step s = .next t ∧ LoadedX s t s.a ∧ t.pc.toNat = (s.pc.toNat + 1) % 65536 ∧ t.runState = .running)

/-- INX: X plus 1 modulo 256, the flags from the new X, PC to the next byte, nothing else (43_register_tax_inx.md
R111). -/
def Obligations.InxIncrementsX : Prop :=
  (∀ s : State, ∃ t, exec .inx s = .next t ∧ LoadedX s t (BitVec.ofNat 8 ((s.x.toNat + 1) % 256)) ∧
    t.pc = s.pc ∧ t.runState = s.runState) ∧
  (∀ s : State, s.Ready → s.opcode = 0xE8 →
    ∃ t, step s = .next t ∧ LoadedX s t (BitVec.ofNat 8 ((s.x.toNat + 1) % 256)) ∧
      t.pc.toNat = (s.pc.toNat + 1) % 65536 ∧ t.runState = .running)

/-- BRK: the run state becomes Halted, PC is the byte after the opcode, no register, no flag and no memory cell is
written, and the single step returns Halted (44_system_brk.md). That PC moves by 1 rests on BRK's operand length 0, the
spec's decision D5 (log entry 10). -/
def Obligations.BrkHalts : Prop :=
  (∀ s : State, ∃ t, exec .brk s = .next t ∧ t.runState = .halted ∧ t.pc = s.pc ∧ t.a = s.a ∧ t.x = s.x ∧
    t.p = s.p ∧ CommonFrame s t) ∧
  (∀ s : State, s.Ready → s.opcode = 0x00 →
    ∃ t, step s = .next t ∧ hostSingleStep s = .next (t, .value .halted) ∧ t.runState = .halted ∧
      t.pc.toNat = (s.pc.toNat + 1) % 65536 ∧ t.a = s.a ∧ t.x = s.x ∧ t.p = s.p ∧ CommonFrame s t)

/-- LDA in every mode the decoder tags it with: the resolver answers an address, the byte there goes to A and sets Zero and
Negative, nothing else is written, PC is the opcode's address plus 1 plus the operand length, the core is running, and no
fault arises (42_load_lda.md R100; that a single step leaves the core running is 45_instruction_cycle.md section 2). -/
def Obligations.LdaLoadsFromTheResolvedAddress : Prop :=
  ∀ (s : State) (mode : Mode), s.Ready → decodeOpcode s.opcode = some ⟨.lda, mode⟩ →
    ∃ ea t, translateMode mode s.fetch = .ok ea ∧ step s = .next t ∧ LoadedA s t (Memory.read s.mem ea) ∧
      t.pc.toNat = (s.pc.toNat + 1 + operandLength mode) % 65536 ∧ t.runState = .running ∧
      t.faultLatch = none

/-- The flags follow the register written: A for LDA, X for TAX and INX (41_alu_and_flags.md R97). -/
def Obligations.FlagsFollowTheWrittenRegister : Prop :=
  ∀ (i : Instr) (s t : State), exec i s = .next t →
    (i.operation.mnemonic = .lda → FlagsOf t t.a) ∧
    (i.operation.mnemonic = .tax → FlagsOf t t.x) ∧
    (i.operation.mnemonic = .inx → FlagsOf t t.x)

/-- The matrix of what each instruction's execute step writes: only LDA writes A, only TAX and INX write X, only BRK the
run state, BRK no flag, and none writes Y, PC, a quiet flag, the latch or memory (10_state.md section 6, the spec's
decision D6: log entry 12). -/
def Obligations.InstructionsWriteOnlyTheirOwn : Prop :=
  ∀ (i : Instr) (s t : State), exec i s = .next t →
    CommonFrame s t ∧ t.pc = s.pc ∧
    (i.operation.mnemonic ≠ .lda → t.a = s.a) ∧
    (i.operation.mnemonic = .lda → t.x = s.x) ∧
    (i.operation.mnemonic = .brk → t.x = s.x ∧ t.p = s.p) ∧
    (i.operation.mnemonic ≠ .brk → t.runState = s.runState)

/-- LDA does not depend on the old A, the old flags or the run history: two states that agree on X, Y and memory load
the same byte and the same flags (42_load_lda.md section 3, the spec's inference). -/
def Obligations.LdaIgnoresOldAccumulatorAndFlags : Prop :=
  ∀ (i : Instr) (s s' t t' : State), i.operation.mnemonic = .lda →
    s.x = s'.x → s.y = s'.y → SameMemory s s' →
    exec i s = .next t → exec i s' = .next t' →
      t.a = t'.a ∧ t.flag .zero = t'.flag .zero ∧ t.flag .negative = t'.flag .negative

/-- `exec` on a decoded instruction is the spec's `Execute(op)`, which asks the resolver for the address and reads the
operand bytes from memory at PC (45_instruction_cycle.md section 1 and 42_load_lda.md section 1; log entry 11). -/
def Obligations.ExecAgreesWithTheResolver : Prop :=
  ∀ (s : State) (i : Instr) (rest : List Byte), decode s.fetchBytes = .ok (i, rest) →
    exec i s.fetch = executeOperation i.operation s.fetch

/-! ### The instruction cycle -/

/-- A step runs the decoded instruction: when the bytes at PC decode to it, the step is its execute step on the state with
PC moved past the opcode byte and the core running, then the default advance by its operand length unless execute
changed PC (45_instruction_cycle.md section 1). -/
def Obligations.StepRunsTheDecodedInstruction : Prop :=
  ∀ (s : State) (i : Instr) (rest : List Byte), s.Ready → i.wellFormed = true →
    decode s.fetchBytes = .ok (i, rest) →
    step s =
      match exec i { s with pc := add16 s.pc 1, runState := .running } with
      | .next t =>
        if t.pc = add16 s.pc 1 then
          .next { t with pc := add16 t.pc (BitVec.ofNat 16 (operandLength i.operation.mode)) }
        else .next t
      | .fault f => .fault f
      | .refused r => .refused r

/-- Fetching one of the 245 unmapped bytes as an opcode latches UnknownOpcode naming the byte, and a byte that is not
among them decodes to an Operation (30_encoding.md section 4). That the seven bytes 0xA1, 0xA5, 0xAD, 0xB1, 0xB5, 0xB9 and
0xBD are not among them is the spec's decision D4 (log entry 3), and that the raise answers a next state is the model's
reading (log entry 6). -/
def Obligations.UnmappedBytesRaiseUnknownOpcode : Prop :=
  (∀ b : Byte, decodeOpcode b = none ↔ UnmappedOpcode b) ∧
  (∀ s : State, s.Ready → UnmappedOpcode s.opcode →
    ∃ t address, step s = .next t ∧ t.faultLatch = some (.unknownOpcode s.opcode address))

/-- The fault is precise: the faulting cycle has changed nothing but PC, by 1, beside the latch and the run state, and the
next step stops (60_exceptions.md sections 1 and 2, the spec's inference and its decisions D9 and D10: log entries 6 and
7). -/
def Obligations.UnknownOpcodeIsPrecise : Prop :=
  ∀ s : State, s.Ready → UnmappedOpcode s.opcode →
    ∃ t, step s = .next t ∧ t.pc.toNat = (s.pc.toNat + 1) % 65536 ∧ t.a = s.a ∧ t.x = s.x ∧ t.y = s.y ∧ t.p = s.p ∧
      t.mem = s.mem ∧ t.runState = .running ∧ step t = .fault (.unknownOpcode s.opcode s.pc)

/-- The transition to Halted occurs exactly when the fetched opcode is BRK, and no further cycle is performed until a
reset (45_instruction_cycle.md section 1). That a step of the halted core answers the same state is the spec's decision
D11 (log entry 13). -/
def Obligations.HaltedExactlyOnBrk : Prop :=
  ∀ s t : State, s.Ready → step s = .next t →
    (t.runState = .halted ↔ s.opcode = 0x00) ∧ (t.runState = .halted → step t = .next t)

/-- The default advance tests PC against the captured value, and in every cycle of a mapped opcode PC moves to the next
instruction in memory order (45_instruction_cycle.md R125). -/
def Obligations.PcMovesToTheNextInstruction : Prop :=
  (∀ (pcSeen : Addr) (length : Nat) (s : State),
    (s.pc = pcSeen → ∃ pc : Addr, pc.toNat = (s.pc.toNat + length) % 65536 ∧
      defaultAdvance pcSeen length s = { s with pc := pc }) ∧
    (s.pc ≠ pcSeen → defaultAdvance pcSeen length s = s)) ∧
  (∀ (s t : State) (op : Operation), s.Ready → decodeOpcode s.opcode = some op → step s = .next t →
    t.pc.toNat = (s.pc.toNat + 1 + operandLength op.mode) % 65536)

/-- No admitted instruction writes memory at all: no step changes a byte of it (20_memory.md R45). -/
def Obligations.NoStepWritesMemory : Prop :=
  ∀ s t : State, step s = .next t → SameMemory s t

/-- A mapped opcode completes its cycle without a fault, from every ready state (42_load_lda.md section 1;
43_register_tax_inx.md; 44_system_brk.md; log entry 3). -/
def Obligations.MappedOpcodesComplete : Prop :=
  ∀ (s : State) (op : Operation), s.Ready → decodeOpcode s.opcode = some op →
    ∃ t, step s = .next t ∧ t.faultLatch = none ∧
      hostSingleStep s = .next (t, .value (if op.mnemonic = .brk then .halted else .continuing))

/-! ### Runs -/

/-- A run and a sequence of single steps from the same state reach the same states (45_instruction_cycle.md section 2, the
spec's inference; fuel is log entry 15). -/
def Obligations.RunIsRepeatedSingleStep : Prop :=
  ∀ (fuel : Nat) (s : State), hostRun fuel s = Host.Core.run Sys2Proof.core fuel s

/-- A run that has ended stays ended: no number of steps and no run changes the state (70_reset_and_hazards.md section 3;
the single step in Halted is the spec's decision D11, log entry 13). -/
def Obligations.EndedIsFinal : Prop :=
  ∀ (s : State) (k : Nat), s.wasReset = true → s.Ended →
    Host.Core.run Sys2Proof.core k s = .next s ∧ hostRun k s = .next s ∧
      hostSingleStep s = .next (s, .value .halted)

/-- A run that neither halts nor faults has fetched a mapped opcode other than BRK in each of its cycles
(45_instruction_cycle.md section 2, the spec's inference). -/
def Obligations.EndlessRunsFetchMappedOpcodes : Prop :=
  ∀ (k : Nat) (s t : State), s.Ready → Host.Core.run Sys2Proof.core k s = .next t → t.Ready →
    ∀ j, j < k → ∃ u op, Host.Core.run Sys2Proof.core j s = .next u ∧ u.Ready ∧
      decodeOpcode u.opcode = some op ∧ op.mnemonic ≠ .brk

/-! ### Faulted, and before the first reset -/

/-- Once the latch is set nothing is accepted, reset included: every operation of the host, every view, every peek and
every step answers the latched fault (60_exceptions.md section 2, the spec's decision D10: log entry 6). That views and
peeks are among what is not accepted is the wider of the spec's two wordings (log entry 17). -/
def Obligations.LatchedCoreAcceptsNothing : Prop :=
  ∀ (s : State) (f : Fault), s.faultLatch = some f →
    step s = .fault f ∧ (∀ op : HostOp, hostAct op s = .fault f) ∧ hostSingleStep s = .fault f ∧
    viewA s = .fault f ∧ viewX s = .fault f ∧ viewY s = .fault f ∧ viewStatus s = .fault f ∧
    (∀ g : Flag, viewFlag g s = .fault f) ∧ viewPc s = .fault f ∧
    (∀ a : Addr, hostRead a s = .fault f) ∧ (∀ a : Addr, hostReadWord a s = .fault f)

/-- Before the first reset run, single step and every view are refused, while a peek answers its cell, a poke writes its
cell, and a reset is accepted (10_state.md section 7, the spec's decision D12: log entry 5). -/
def Obligations.RunIsRefusedBeforeReset : Prop :=
  ∀ s : State, s.faultLatch = none → s.wasReset = false →
    step s = .refused .notReset ∧ (∀ fuel, hostRun (fuel + 1) s = .refused .notReset) ∧
    hostSingleStep s = .refused .notReset ∧
    viewA s = .refused .notReset ∧ viewX s = .refused .notReset ∧ viewY s = .refused .notReset ∧
    viewStatus s = .refused .notReset ∧ (∀ f, viewFlag f s = .refused .notReset) ∧ viewPc s = .refused .notReset ∧
    (∀ a : Addr, hostRead a s = .value (Memory.read s.mem a)) ∧
    (∀ (a : Addr) (v : Byte), hostWrite a v s = .next { s with mem := Memory.write s.mem a v }) ∧
    ∃ t, hostReset s = .next t ∧ t.Ready

/-! ### Reset and the host -/

/-- Reset zeroes A, X, Y and every flag, takes PC from the little-endian word at 0xFFFC as memory stands, makes the core
Idle, and leaves memory and the latch alone (70_reset_and_hazards.md section 1; Idle is the spec's decision D11, what is
left alone its D24: log entries 13 and 19). -/
def Obligations.ResetZeroesAndTakesTheVector : Prop :=
  ∀ s : State, s.faultLatch = none →
    ∃ t, hostReset s = .next t ∧ t.a = 0 ∧ t.x = 0 ∧ t.y = 0 ∧ t.p = 0 ∧ (∀ f : Flag, t.flag f = false) ∧
      t.pc.toNat = (s.cell 0xFFFD).toNat * 256 + (s.cell 0xFFFC).toNat ∧ t.runState = .idle ∧
      t.wasReset = true ∧ t.faultLatch = none ∧ t.mem = s.mem

/-- The state after reset with nothing listed in memory is what the reset operation makes of power-on, whatever the
registers held then (70_reset_and_hazards.md sections 1 and 2; the contents of that memory, and so its PC 0xFFFF, are the
model's choice: log entries 1 and 2). -/
def Obligations.ResetStateComesFromPowerOn : Prop :=
  (∀ (a x y p : Byte) (pc : Addr), hostReset (State.powerOn a x y p pc []) = .next State.reset) ∧
  State.reset.pc = 0xFFFF

/-- The engine-level load in range, at any origin: each program byte in its cell unless that cell is one of the vector's,
the vector holding the origin, every other cell and every register as before (70_reset_and_hazards.md section 2; the
order of copy and vector write is the spec's decision D21, log entry 14). -/
def Obligations.EngineLoadPlacesProgramAndVector : Prop :=
  ∀ (s : State) (origin : Addr) (bytes : List Byte), s.faultLatch = none → origin.toNat + bytes.length ≤ 65536 →
    ∃ t, hostLoadAt origin bytes s = .next t ∧
      Memory.readWord t.mem resetVector = origin ∧
      (∀ (n : Nat) (h : n < bytes.length), origin.toNat + n ≠ 0xFFFC → origin.toNat + n ≠ 0xFFFD →
        t.cell (origin.toNat + n) = bytes[n]) ∧
      (∀ b : Addr, (b.toNat < origin.toNat ∨ origin.toNat + bytes.length ≤ b.toNat) →
        b.toNat ≠ 0xFFFC → b.toNat ≠ 0xFFFD → Memory.read t.mem b = Memory.read s.mem b) ∧
      t = { s with mem := t.mem }

/-- Load and reset bring the core, from every run state, to the program's origin with every register zeroed and ready to
run; `loadAndRun` in Idle and Halted is run from there, and in Running it is refused (70_reset_and_hazards.md sections 2
and 3). The origin is open (log entry 8); the order of copy and vector write is the spec's decision D21 (log entry 14);
that reset makes a Halted core Idle is its decision D11 (log entry 13); that loadAndRun is Idle's and Halted's only is its
host table, and the refusal's name is the model's choice (log entry 18). -/
def Obligations.BootEntersAtTheOrigin : Prop :=
  (∀ (s : State) (origin : Addr) (bytes : List Byte), s.faultLatch = none → origin.toNat + bytes.length ≤ 65536 →
    ∃ t, andThen (hostLoadAt origin bytes s) hostReset = .next t ∧ t.Ready ∧ t.pc = origin ∧
      t.a = 0 ∧ t.x = 0 ∧ t.y = 0 ∧ t.p = 0 ∧
      (s.runState ≠ .running → ∀ fuel, hostLoadAndRunAt origin bytes fuel s = hostRun fuel t)) ∧
  (∀ (s : State) (origin : Addr) (bytes : List Byte) (fuel : Nat), s.faultLatch = none → s.runState = .running →
    hostLoadAndRunAt origin bytes fuel s = .refused .notAtRest)

/-- A byte the host writes at PC between two steps is the opcode the next cycle fetches (20_memory.md section 7, the
spec's decision D15; 70_reset_and_hazards.md section 4). -/
def Obligations.PokeIsSeenByTheNextFetch : Prop :=
  ∀ (s : State) (v : Byte), s.Ready →
    ∃ t, hostWrite s.pc v s = .next t ∧ t.Ready ∧ t.opcode = v ∧ t = { s with mem := t.mem } ∧
      (UnmappedOpcode v → ∃ u address, step t = .next u ∧ u.faultLatch = some (.unknownOpcode v address))

/-- After a reset each view answers its register, and a peek its cell (70_reset_and_hazards.md section 2; that a view
waits for a reset and for an unset latch is the spec's decisions D10 and D12: log entries 5 and 17). -/
def Obligations.ViewsAnswerTheRegisters : Prop :=
  ∀ s : State, s.faultLatch = none → s.wasReset = true →
    viewA s = .value s.a ∧ viewX s = .value s.x ∧ viewY s = .value s.y ∧ viewStatus s = .value s.p ∧
    viewPc s = .value s.pc ∧ (∀ f : Flag, viewFlag f s = .value (s.flag f)) ∧
    (∀ a : Addr, hostRead a s = .value (Memory.read s.mem a)) ∧
    ∀ a : Addr, hostReadWord a s = .value (Memory.readWord s.mem a)

/-! ### The invariant -/

/-- The invariant holds right after reset (10_state.md sections 1 to 3; memory is log entry 1's). -/
def Obligations.InvariantHoldsAtReset : Prop := State.reset.Inv

/-- Every step keeps the invariant: memory stays canonical, and from the first reset on Y and the six quiet flags stay 0
and Zero and Negative are never both 1 (10_state.md sections 2 and 3, the spec's inference and its decision D6: log entry
12). -/
def Obligations.InvariantKeptByEveryStep : Prop :=
  ∀ s t : State, s.Inv → step s = .next t → t.Inv

/-- Every operation of the host keeps the invariant, and it holds at power-on whatever the registers hold
(70_reset_and_hazards.md section 2; log entries 5 and 12). -/
def Obligations.InvariantKeptByTheHost : Prop :=
  (∀ (op : HostOp) (s t : State), s.Inv → hostAct op s = .next t → t.Inv) ∧
  (∀ (a x y p : Byte) (pc : Addr) (m : Memory), Memory.wf m = true → (State.powerOn a x y p pc m).Inv)

/-! ### The host's pokes -/

/-- With the latch None, whatever the run state and before the first reset too, each poke of the host is its memory
operation at any address and changes nothing but memory: the byte write, the word write, and the bus-level load in range,
whose effect on the cells BusLoadCopiesInRange says (70_reset_and_hazards.md section 2; 20_memory.md section 1; the wrap of
the word write is the spec's inference, log entry 16; that a load tests its range first is its decision D21, log entry
14). -/
def Obligations.HostPokesWriteTheirCells : Prop :=
  ∀ s : State, s.faultLatch = none →
    (∀ (a : Addr) (v : Byte), hostWrite a v s = .next { s with mem := Memory.write s.mem a v }) ∧
    (∀ a v : Addr, hostWriteWord a v s = .next { s with mem := Memory.writeWord s.mem a v }) ∧
    (∀ (offset : Addr) (bytes : List Byte), offset.toNat + bytes.length ≤ 65536 →
      hostBusLoad offset bytes s = .next { s with mem := Memory.copy s.mem offset bytes } ∧
      s.busLoad offset bytes = { s with mem := Memory.copy s.mem offset bytes })
end

