-- ==== Sys2Proof/Laws/Alu.lean ====
section
/-!
SUPPORT. The byte-order helpers as numbers.
-/

namespace Sys2Proof.Machine

@[simp] theorem zext16_toNat (b : Byte) : (zext16 b).toNat = b.toNat := by
  simp only [zext16, BitVec.toNat_setWidth]; omega

@[simp] theorem wordOf_toNat (hi lo : Byte) : (wordOf hi lo).toNat = hi.toNat * 256 + lo.toNat := by
  simp only [wordOf, BitVec.toNat_ofNat]; omega

@[simp] theorem lowByte_toNat (v : Addr) : (lowByte v).toNat = v.toNat % 256 := by
  simp only [lowByte, BitVec.toNat_ofNat]; omega

@[simp] theorem highByte_toNat (v : Addr) : (highByte v).toNat = v.toNat / 256 := by
  simp only [highByte, BitVec.toNat_ofNat]; omega

/-- A word is put together again from its two bytes. -/
@[simp] theorem wordOf_high_low (v : Addr) : wordOf (highByte v) (lowByte v) = v := by
  apply BitVec.eq_of_toNat_eq
  simp only [wordOf_toNat, highByte_toNat, lowByte_toNat]; omega

@[simp] theorem lowByte_wordOf (hi lo : Byte) : lowByte (wordOf hi lo) = lo := by
  apply BitVec.eq_of_toNat_eq
  simp only [wordOf_toNat, lowByte_toNat]; omega

@[simp] theorem highByte_wordOf (hi lo : Byte) : highByte (wordOf hi lo) = hi := by
  apply BitVec.eq_of_toNat_eq
  simp only [wordOf_toNat, highByte_toNat]; omega

end Sys2Proof.Machine
end

