-- ==== Sys2Proof/Laws/Decode.lean ====
section
/-!
SUPPORT. The decode table taken apart: its bytes are distinct, and what a mapped byte can be.
-/

namespace Sys2Proof

/-- No two rows of the decode table have the same byte. -/
theorem opcodeTable_distinct : opcodeTable.Pairwise (fun r r' => r.opcode ≠ r'.opcode) := by decide

/-- A mapped byte is the byte of some row, with that row's Operation. -/
theorem mem_opcodeTable_of_decodeOpcode {b : Byte} {op : Operation} (h : decodeOpcode b = some op) :
    (⟨b, op⟩ : OpcodeRow) ∈ opcodeTable := by
  simp only [decodeOpcode, Option.map_eq_some_iff] at h
  obtain ⟨row, hrow, rfl⟩ := h
  have hb : row.opcode = b := by simpa using List.find?_some hrow
  subst hb
  exact List.mem_of_find?_eq_some hrow

/-- The eleven cases of a mapped byte. -/
theorem decodeOpcode_cases {b : Byte} {op : Operation} (h : decodeOpcode b = some op) :
    (b = 0x00 ∧ op = ⟨.brk, .none⟩) ∨ (b = 0xA1 ∧ op = ⟨.lda, .indirectX⟩) ∨
    (b = 0xA5 ∧ op = ⟨.lda, .zeroPage⟩) ∨ (b = 0xA9 ∧ op = ⟨.lda, .immediate⟩) ∨
    (b = 0xAA ∧ op = ⟨.tax, .none⟩) ∨ (b = 0xAD ∧ op = ⟨.lda, .absolute⟩) ∨
    (b = 0xB1 ∧ op = ⟨.lda, .indirectY⟩) ∨ (b = 0xB5 ∧ op = ⟨.lda, .zeroPageX⟩) ∨
    (b = 0xB9 ∧ op = ⟨.lda, .absoluteY⟩) ∨ (b = 0xBD ∧ op = ⟨.lda, .absoluteX⟩) ∨
    (b = 0xE8 ∧ op = ⟨.inx, .none⟩) := by
  simpa [opcodeTable] using mem_opcodeTable_of_decodeOpcode h

end Sys2Proof
end

