-- ==== Sys2Proof/Laws/Flags.lean ====
section
/-!
SUPPORT. Reading a flag after one is written, and after `SetZN`.
-/

namespace Sys2Proof.Machine

theorem flagOf_withFlag_self (p : Byte) (f : Flag) (b : Bool) : flagOf (withFlag p f b) f = b := by
  cases f <;> cases b <;> simp [flagOf, withFlag, Flag.bit]

theorem flagOf_withFlag_of_ne (p : Byte) {f g : Flag} (h : g ≠ f) (b : Bool) :
    flagOf (withFlag p f b) g = flagOf p g := by
  cases f <;> cases g <;> first | exact absurd rfl h | (cases b <;> simp [flagOf, withFlag, Flag.bit])

/-- All eight flags after `SetZN`. -/
theorem flagOf_setZN (p v : Byte) (f : Flag) :
    flagOf (setZN p v) f = if f = .zero then decide (v = 0) else if f = .negative then v.getLsbD 7 else flagOf p f := by
  unfold setZN
  by_cases hn : f = .negative
  · subst hn; simp [flagOf_withFlag_self]
  · rw [flagOf_withFlag_of_ne _ hn]
    by_cases hz : f = .zero
    · subst hz; simp [flagOf_withFlag_self]
    · simp [flagOf_withFlag_of_ne _ hz, hz, hn]

/-- The status byte reset leaves has no flag set. -/
@[simp] theorem flagOf_zero (f : Flag) : flagOf 0 f = false := by
  simp [flagOf]

end Sys2Proof.Machine
end

