-- ==== Sys2Proof/Laws/HostOps.lean ====
section
/-!
SUPPORT. What each shared operation of the host can do, said once: an accepted operation, a reply, a view, and loadAndRun
by latch and run state.
-/

namespace Sys2Proof.Machine

/-- With the latch None an operation is accepted. -/
theorem State.accept_of_none {s : State} (h : s.faultLatch = none) (t : State) : s.accept t = .next t := by
  simp [State.accept, h]

/-- With the latch set an operation answers the latched fault. -/
theorem State.accept_of_latched {s : State} {f : Fault} (h : s.faultLatch = some f) (t : State) :
    s.accept t = .fault f := by
  simp [State.accept, h]

/-- An operation that answers a next state was accepted, and answers the state offered. -/
theorem State.accept_next {s t u : State} (h : s.accept t = .next u) : s.faultLatch = none ∧ u = t := by
  unfold State.accept at h
  split at h
  · cases h
  · exact ⟨‹_›, by cases h; rfl⟩

/-- With the latch set nothing is replied. -/
theorem State.reply_of_latched {α : Type} {s : State} {f : Fault} (h : s.faultLatch = some f) (v : α) :
    s.reply v = .fault f := by
  simp [State.reply, h]

/-- With the latch set no view is answered. -/
theorem State.view_of_latched {α : Type} {s : State} {f : Fault} (h : s.faultLatch = some f) (v : α) :
    s.view v = .fault f := by
  simp [State.view, h]

/-- With the latch set loadAndRun answers the latched fault. -/
theorem hostLoadAndRunAt_of_latched {s : State} {f : Fault} (h : s.faultLatch = some f) (origin : Addr)
    (bytes : List Byte) (fuel : Nat) : hostLoadAndRunAt origin bytes fuel s = .fault f := by
  simp [hostLoadAndRunAt, h]

/-- At rest loadAndRun is load, reset, run. -/
theorem hostLoadAndRunAt_at_rest {s : State} (h : s.faultLatch = none) (hr : s.runState ≠ .running) (origin : Addr)
    (bytes : List Byte) (fuel : Nat) : hostLoadAndRunAt origin bytes fuel s = loadResetRun origin bytes fuel s := by
  cases hs : s.runState <;> simp_all [hostLoadAndRunAt]

/-- A loadAndRun that answers a next state was asked for at rest, and its load, its reset and its run each answered a
next state. -/
theorem hostLoadAndRunAt_next {s t : State} {origin : Addr} {bytes : List Byte} {fuel : Nat}
    (h : hostLoadAndRunAt origin bytes fuel s = .next t) :
    s.faultLatch = none ∧ s.runState ≠ .running ∧
      ∃ u v, hostLoadAt origin bytes s = .next u ∧ hostReset u = .next v ∧ hostRun fuel v = .next t := by
  have hl : s.faultLatch = none := by
    cases hf : s.faultLatch with
    | none => rfl
    | some f => rw [hostLoadAndRunAt_of_latched hf] at h; cases h
  have hr : s.runState ≠ .running := by
    intro hr
    simp [hostLoadAndRunAt, hl, hr] at h
  refine ⟨hl, hr, ?_⟩
  rw [hostLoadAndRunAt_at_rest hl hr, loadResetRun] at h
  cases h1 : hostLoadAt origin bytes s <;> simp only [h1, andThen, reduceCtorEq] at h
  rename_i u
  cases h2 : hostReset u <;> simp only [h2, reduceCtorEq] at h
  exact ⟨u, _, rfl, h2, h⟩

end Sys2Proof.Machine
end

