-- ==== Sys2Proof/Laws/Memory.lean ====
section
/-!
SUPPORT. Every memory operation keeps the canonical form.
-/

namespace Sys2Proof.Machine

@[simp] theorem Memory.wfFrom_cons (low k : Nat) (v : Byte) (rest : Memory) :
    Memory.wfFrom low ((k, v) :: rest) = true ↔
      low ≤ k ∧ k < 65536 ∧ v ≠ unlistedByte ∧ Memory.wfFrom (k + 1) rest = true := by
  simp [Memory.wfFrom, and_assoc]

/-- A canonical list is canonical from any lower address. -/
theorem Memory.wfFrom_mono {low low' : Nat} (h : low' ≤ low) :
    ∀ {m : Memory}, Memory.wfFrom low m = true → Memory.wfFrom low' m = true
  | [], _ => rfl
  | (k, v) :: rest, hm => by
    rw [Memory.wfFrom_cons] at hm ⊢
    exact ⟨h.trans hm.1, hm.2⟩

/-- An address left out is not listed. -/
theorem Memory.lookup_erase_self (n : Nat) : ∀ m : Memory, Memory.lookup (Memory.erase m n) n = none
  | [] => rfl
  | (k, v) :: rest => by
    by_cases h : k = n
    · simp [Memory.erase, h, Memory.lookup_erase_self n rest]
    · simp [Memory.erase, h, Memory.lookup, Memory.lookup_erase_self n rest]

theorem Memory.erase_wfFrom (n : Nat) : ∀ {m : Memory} {low : Nat},
    Memory.wfFrom low m = true → Memory.wfFrom low (Memory.erase m n) = true
  | [], _, _ => rfl
  | (k, v) :: rest, low, hm => by
    rw [Memory.wfFrom_cons] at hm
    have hrest := Memory.erase_wfFrom n hm.2.2.2
    by_cases h : k = n
    · rw [Memory.erase, if_pos h]
      exact Memory.wfFrom_mono (by omega) hrest
    · rw [Memory.erase, if_neg h, Memory.wfFrom_cons]
      exact ⟨hm.1, hm.2.1, hm.2.2.1, hrest⟩

theorem Memory.insert_wfFrom {n : Nat} {v : Byte} (hn : n < 65536) (hv : v ≠ unlistedByte) :
    ∀ {m : Memory} {low : Nat}, Memory.wfFrom low m = true → Memory.lookup m n = none → low ≤ n →
      Memory.wfFrom low (Memory.insert m n v) = true
  | [], low, _, _, hlow => by simp [Memory.insert, Memory.wfFrom, hlow, hn, hv]
  | (k, w) :: rest, low, hm, hfresh, hlow => by
    rw [Memory.wfFrom_cons] at hm
    by_cases hlt : n < k
    · rw [Memory.insert, if_pos hlt, Memory.wfFrom_cons, Memory.wfFrom_cons]
      exact ⟨hlow, hn, hv, hlt, hm.2⟩
    · have hne : k ≠ n := by
        intro h
        simp [Memory.lookup, h] at hfresh
      rw [Memory.lookup, if_neg hne] at hfresh
      rw [Memory.insert, if_neg hlt, Memory.wfFrom_cons]
      exact ⟨hm.1, hm.2.1, hm.2.2.1, Memory.insert_wfFrom hn hv hm.2.2.2 hfresh (by omega)⟩

/-- A byte write keeps the canonical form. -/
theorem Memory.write_wf {m : Memory} (a : Addr) (v : Byte) (h : Memory.wf m = true) :
    Memory.wf (Memory.write m a v) = true := by
  have herase := Memory.erase_wfFrom a.toNat h
  unfold Memory.write
  split
  · exact herase
  · exact Memory.insert_wfFrom a.isLt ‹_› herase (Memory.lookup_erase_self _ _) (Nat.zero_le _)

/-- A word write keeps the canonical form. -/
theorem Memory.writeWord_wf {m : Memory} (a v : Addr) (h : Memory.wf m = true) :
    Memory.wf (Memory.writeWord m a v) = true :=
  Memory.write_wf _ _ (Memory.write_wf _ _ h)

/-- The copy of a bus load keeps the canonical form. -/
theorem Memory.copy_wf : ∀ (bytes : List Byte) {m : Memory} (a : Addr),
    Memory.wf m = true → Memory.wf (Memory.copy m a bytes) = true
  | [], _, _, h => h
  | b :: rest, _, a, h => Memory.copy_wf rest (add16 a 1) (Memory.write_wf a b h)

/-- The reset state's memory is canonical. -/
theorem Memory.wf_nil : Memory.wf [] = true := rfl

end Sys2Proof.Machine
end

