-- ==== Sys2Proof/Laws/State.lean ====
section
/-!
SUPPORT. What each update of the state does to each field: one lemma a field and update, so that no proof unfolds an
update.
-/

namespace Sys2Proof.Machine

@[simp] theorem State.writeA_a (s : State) (v : Byte) : (s.writeA v).a = v := rfl
@[simp] theorem State.writeA_x (s : State) (v : Byte) : (s.writeA v).x = s.x := rfl
@[simp] theorem State.writeA_y (s : State) (v : Byte) : (s.writeA v).y = s.y := rfl
@[simp] theorem State.writeA_p (s : State) (v : Byte) : (s.writeA v).p = s.p := rfl
@[simp] theorem State.writeA_pc (s : State) (v : Byte) : (s.writeA v).pc = s.pc := rfl
@[simp] theorem State.writeA_runState (s : State) (v : Byte) : (s.writeA v).runState = s.runState := rfl
@[simp] theorem State.writeA_faultLatch (s : State) (v : Byte) : (s.writeA v).faultLatch = s.faultLatch := rfl
@[simp] theorem State.writeA_wasReset (s : State) (v : Byte) : (s.writeA v).wasReset = s.wasReset := rfl
@[simp] theorem State.writeA_mem (s : State) (v : Byte) : (s.writeA v).mem = s.mem := rfl

@[simp] theorem State.writeX_a (s : State) (v : Byte) : (s.writeX v).a = s.a := rfl
@[simp] theorem State.writeX_x (s : State) (v : Byte) : (s.writeX v).x = v := rfl
@[simp] theorem State.writeX_y (s : State) (v : Byte) : (s.writeX v).y = s.y := rfl
@[simp] theorem State.writeX_p (s : State) (v : Byte) : (s.writeX v).p = s.p := rfl
@[simp] theorem State.writeX_pc (s : State) (v : Byte) : (s.writeX v).pc = s.pc := rfl
@[simp] theorem State.writeX_runState (s : State) (v : Byte) : (s.writeX v).runState = s.runState := rfl
@[simp] theorem State.writeX_faultLatch (s : State) (v : Byte) : (s.writeX v).faultLatch = s.faultLatch := rfl
@[simp] theorem State.writeX_wasReset (s : State) (v : Byte) : (s.writeX v).wasReset = s.wasReset := rfl
@[simp] theorem State.writeX_mem (s : State) (v : Byte) : (s.writeX v).mem = s.mem := rfl

@[simp] theorem State.writeP_a (s : State) (v : Byte) : (s.writeP v).a = s.a := rfl
@[simp] theorem State.writeP_x (s : State) (v : Byte) : (s.writeP v).x = s.x := rfl
@[simp] theorem State.writeP_y (s : State) (v : Byte) : (s.writeP v).y = s.y := rfl
@[simp] theorem State.writeP_p (s : State) (v : Byte) : (s.writeP v).p = v := rfl
@[simp] theorem State.writeP_pc (s : State) (v : Byte) : (s.writeP v).pc = s.pc := rfl
@[simp] theorem State.writeP_runState (s : State) (v : Byte) : (s.writeP v).runState = s.runState := rfl
@[simp] theorem State.writeP_faultLatch (s : State) (v : Byte) : (s.writeP v).faultLatch = s.faultLatch := rfl
@[simp] theorem State.writeP_wasReset (s : State) (v : Byte) : (s.writeP v).wasReset = s.wasReset := rfl
@[simp] theorem State.writeP_mem (s : State) (v : Byte) : (s.writeP v).mem = s.mem := rfl

@[simp] theorem State.writePc_a (s : State) (v : Addr) : (s.writePc v).a = s.a := rfl
@[simp] theorem State.writePc_x (s : State) (v : Addr) : (s.writePc v).x = s.x := rfl
@[simp] theorem State.writePc_y (s : State) (v : Addr) : (s.writePc v).y = s.y := rfl
@[simp] theorem State.writePc_p (s : State) (v : Addr) : (s.writePc v).p = s.p := rfl
@[simp] theorem State.writePc_pc (s : State) (v : Addr) : (s.writePc v).pc = v := rfl
@[simp] theorem State.writePc_runState (s : State) (v : Addr) : (s.writePc v).runState = s.runState := rfl
@[simp] theorem State.writePc_faultLatch (s : State) (v : Addr) : (s.writePc v).faultLatch = s.faultLatch := rfl
@[simp] theorem State.writePc_wasReset (s : State) (v : Addr) : (s.writePc v).wasReset = s.wasReset := rfl
@[simp] theorem State.writePc_mem (s : State) (v : Addr) : (s.writePc v).mem = s.mem := rfl

@[simp] theorem State.writeRunState_a (s : State) (r : RunState) : (s.writeRunState r).a = s.a := rfl
@[simp] theorem State.writeRunState_x (s : State) (r : RunState) : (s.writeRunState r).x = s.x := rfl
@[simp] theorem State.writeRunState_y (s : State) (r : RunState) : (s.writeRunState r).y = s.y := rfl
@[simp] theorem State.writeRunState_p (s : State) (r : RunState) : (s.writeRunState r).p = s.p := rfl
@[simp] theorem State.writeRunState_pc (s : State) (r : RunState) : (s.writeRunState r).pc = s.pc := rfl
@[simp] theorem State.writeRunState_runState (s : State) (r : RunState) : (s.writeRunState r).runState = r := rfl
@[simp] theorem State.writeRunState_faultLatch (s : State) (r : RunState) : (s.writeRunState r).faultLatch = s.faultLatch := rfl
@[simp] theorem State.writeRunState_wasReset (s : State) (r : RunState) : (s.writeRunState r).wasReset = s.wasReset := rfl
@[simp] theorem State.writeRunState_mem (s : State) (r : RunState) : (s.writeRunState r).mem = s.mem := rfl

@[simp] theorem State.writeMem_a (s : State) (m : Memory) : (s.writeMem m).a = s.a := rfl
@[simp] theorem State.writeMem_x (s : State) (m : Memory) : (s.writeMem m).x = s.x := rfl
@[simp] theorem State.writeMem_y (s : State) (m : Memory) : (s.writeMem m).y = s.y := rfl
@[simp] theorem State.writeMem_p (s : State) (m : Memory) : (s.writeMem m).p = s.p := rfl
@[simp] theorem State.writeMem_pc (s : State) (m : Memory) : (s.writeMem m).pc = s.pc := rfl
@[simp] theorem State.writeMem_runState (s : State) (m : Memory) : (s.writeMem m).runState = s.runState := rfl
@[simp] theorem State.writeMem_faultLatch (s : State) (m : Memory) : (s.writeMem m).faultLatch = s.faultLatch := rfl
@[simp] theorem State.writeMem_wasReset (s : State) (m : Memory) : (s.writeMem m).wasReset = s.wasReset := rfl
@[simp] theorem State.writeMem_mem (s : State) (m : Memory) : (s.writeMem m).mem = m := rfl

@[simp] theorem State.raise_a (s : State) (f : Fault) : (s.raise f).a = s.a := rfl
@[simp] theorem State.raise_x (s : State) (f : Fault) : (s.raise f).x = s.x := rfl
@[simp] theorem State.raise_y (s : State) (f : Fault) : (s.raise f).y = s.y := rfl
@[simp] theorem State.raise_p (s : State) (f : Fault) : (s.raise f).p = s.p := rfl
@[simp] theorem State.raise_pc (s : State) (f : Fault) : (s.raise f).pc = s.pc := rfl
@[simp] theorem State.raise_runState (s : State) (f : Fault) : (s.raise f).runState = s.runState := rfl
@[simp] theorem State.raise_faultLatch (s : State) (f : Fault) : (s.raise f).faultLatch = some (s.faultLatch.getD f) := rfl
@[simp] theorem State.raise_wasReset (s : State) (f : Fault) : (s.raise f).wasReset = s.wasReset := rfl
@[simp] theorem State.raise_mem (s : State) (f : Fault) : (s.raise f).mem = s.mem := rfl

@[simp] theorem State.applyReset_a (s : State) : s.applyReset.a = 0 := rfl
@[simp] theorem State.applyReset_x (s : State) : s.applyReset.x = 0 := rfl
@[simp] theorem State.applyReset_y (s : State) : s.applyReset.y = 0 := rfl
@[simp] theorem State.applyReset_p (s : State) : s.applyReset.p = 0 := rfl
@[simp] theorem State.applyReset_pc (s : State) : s.applyReset.pc = Memory.readWord s.mem resetVector := rfl
@[simp] theorem State.applyReset_runState (s : State) : s.applyReset.runState = .idle := rfl
@[simp] theorem State.applyReset_faultLatch (s : State) : s.applyReset.faultLatch = s.faultLatch := rfl
@[simp] theorem State.applyReset_wasReset (s : State) : s.applyReset.wasReset = true := rfl
@[simp] theorem State.applyReset_mem (s : State) : s.applyReset.mem = s.mem := rfl

end Sys2Proof.Machine
end

