-- ==== Sys2Proof/Laws/Ops.lean ====
section
/-!
SUPPORT. What each shared operation does, said once: `SetZN`, the two loads, fetch and the default advance, field by
field.
-/

namespace Sys2Proof.Machine

@[simp] theorem State.setZN_a (s : State) (v : Byte) : (s.setZN v).a = s.a := rfl
@[simp] theorem State.setZN_x (s : State) (v : Byte) : (s.setZN v).x = s.x := rfl
@[simp] theorem State.setZN_y (s : State) (v : Byte) : (s.setZN v).y = s.y := rfl
@[simp] theorem State.setZN_p (s : State) (v : Byte) : (s.setZN v).p = Machine.setZN s.p v := rfl
@[simp] theorem State.setZN_pc (s : State) (v : Byte) : (s.setZN v).pc = s.pc := rfl
@[simp] theorem State.setZN_runState (s : State) (v : Byte) : (s.setZN v).runState = s.runState := rfl
@[simp] theorem State.setZN_faultLatch (s : State) (v : Byte) : (s.setZN v).faultLatch = s.faultLatch := rfl
@[simp] theorem State.setZN_wasReset (s : State) (v : Byte) : (s.setZN v).wasReset = s.wasReset := rfl
@[simp] theorem State.setZN_mem (s : State) (v : Byte) : (s.setZN v).mem = s.mem := rfl

@[simp] theorem State.loadA_a (s : State) (v : Byte) : (s.loadA v).a = v := rfl
@[simp] theorem State.loadA_x (s : State) (v : Byte) : (s.loadA v).x = s.x := rfl
@[simp] theorem State.loadA_y (s : State) (v : Byte) : (s.loadA v).y = s.y := rfl
@[simp] theorem State.loadA_p (s : State) (v : Byte) : (s.loadA v).p = Machine.setZN s.p v := rfl
@[simp] theorem State.loadA_pc (s : State) (v : Byte) : (s.loadA v).pc = s.pc := rfl
@[simp] theorem State.loadA_runState (s : State) (v : Byte) : (s.loadA v).runState = s.runState := rfl
@[simp] theorem State.loadA_faultLatch (s : State) (v : Byte) : (s.loadA v).faultLatch = s.faultLatch := rfl
@[simp] theorem State.loadA_wasReset (s : State) (v : Byte) : (s.loadA v).wasReset = s.wasReset := rfl
@[simp] theorem State.loadA_mem (s : State) (v : Byte) : (s.loadA v).mem = s.mem := rfl

@[simp] theorem State.loadX_a (s : State) (v : Byte) : (s.loadX v).a = s.a := rfl
@[simp] theorem State.loadX_x (s : State) (v : Byte) : (s.loadX v).x = v := rfl
@[simp] theorem State.loadX_y (s : State) (v : Byte) : (s.loadX v).y = s.y := rfl
@[simp] theorem State.loadX_p (s : State) (v : Byte) : (s.loadX v).p = Machine.setZN s.p v := rfl
@[simp] theorem State.loadX_pc (s : State) (v : Byte) : (s.loadX v).pc = s.pc := rfl
@[simp] theorem State.loadX_runState (s : State) (v : Byte) : (s.loadX v).runState = s.runState := rfl
@[simp] theorem State.loadX_faultLatch (s : State) (v : Byte) : (s.loadX v).faultLatch = s.faultLatch := rfl
@[simp] theorem State.loadX_wasReset (s : State) (v : Byte) : (s.loadX v).wasReset = s.wasReset := rfl
@[simp] theorem State.loadX_mem (s : State) (v : Byte) : (s.loadX v).mem = s.mem := rfl

@[simp] theorem State.fetch_a (s : State) : s.fetch.a = s.a := rfl
@[simp] theorem State.fetch_x (s : State) : s.fetch.x = s.x := rfl
@[simp] theorem State.fetch_y (s : State) : s.fetch.y = s.y := rfl
@[simp] theorem State.fetch_p (s : State) : s.fetch.p = s.p := rfl
@[simp] theorem State.fetch_pc (s : State) : s.fetch.pc = add16 s.pc 1 := rfl
@[simp] theorem State.fetch_runState (s : State) : s.fetch.runState = s.runState := rfl
@[simp] theorem State.fetch_faultLatch (s : State) : s.fetch.faultLatch = s.faultLatch := rfl
@[simp] theorem State.fetch_wasReset (s : State) : s.fetch.wasReset = s.wasReset := rfl
@[simp] theorem State.fetch_mem (s : State) : s.fetch.mem = s.mem := rfl

/-- The flags after `SetZN` on the state. -/
theorem State.setZN_flag (s : State) (v : Byte) (f : Flag) :
    (s.setZN v).flag f = if f = .zero then decide (v = 0) else if f = .negative then v.getLsbD 7 else s.flag f :=
  flagOf_setZN s.p v f

/-- The flags after a load of A. -/
theorem State.loadA_flag (s : State) (v : Byte) (f : Flag) :
    (s.loadA v).flag f = if f = .zero then decide (v = 0) else if f = .negative then v.getLsbD 7 else s.flag f :=
  flagOf_setZN s.p v f

/-- The flags after a load of X. -/
theorem State.loadX_flag (s : State) (v : Byte) (f : Flag) :
    (s.loadX v).flag f = if f = .zero then decide (v = 0) else if f = .negative then v.getLsbD 7 else s.flag f :=
  flagOf_setZN s.p v f

/-- The default advance of a state whose PC execute left alone. -/
theorem defaultAdvance_of_eq {pcSeen : Addr} {s : State} (length : Nat) (h : s.pc = pcSeen) :
    defaultAdvance pcSeen length s = s.writePc (add16 s.pc (BitVec.ofNat 16 length)) := by
  simp [defaultAdvance, h]

/-- The default advance of a state whose PC execute changed. -/
theorem defaultAdvance_of_ne {pcSeen : Addr} {s : State} (length : Nat) (h : s.pc ≠ pcSeen) :
    defaultAdvance pcSeen length s = s := by
  simp [defaultAdvance, h]

/-- The bus load in range. -/
theorem State.busLoad_of_le {s : State} {offset : Addr} {bytes : List Byte} (h : offset.toNat + bytes.length ≤ 65536) :
    s.busLoad offset bytes = s.writeMem (Memory.copy s.mem offset bytes) := by
  simp [State.busLoad, Nat.not_lt.mpr h]

/-- The bus load out of range. -/
theorem State.busLoad_of_gt {s : State} {offset : Addr} {bytes : List Byte} (h : 65536 < offset.toNat + bytes.length) :
    s.busLoad offset bytes = s.raise (.loadOutOfRange offset bytes.length) := by
  simp [State.busLoad, h]

/-- The engine-level load in range, on a core whose latch is None: the copy, then the vector. -/
theorem State.engineLoad_of_le {s : State} {origin : Addr} {bytes : List Byte} (hl : s.faultLatch = none)
    (h : origin.toNat + bytes.length ≤ 65536) :
    s.engineLoad origin bytes =
      s.writeMem (Memory.writeWord (Memory.copy s.mem origin bytes) resetVector origin) := by
  simp only [State.engineLoad, State.busLoad_of_le h, State.writeMem_faultLatch, hl]
  rfl

/-- The engine-level load out of range: the fault, and no write. -/
theorem State.engineLoad_of_gt {s : State} {origin : Addr} {bytes : List Byte}
    (h : 65536 < origin.toNat + bytes.length) :
    s.engineLoad origin bytes = s.raise (.loadOutOfRange origin bytes.length) := by
  simp only [State.engineLoad, State.busLoad_of_gt h, State.raise_faultLatch]

end Sys2Proof.Machine
end

