-- ==== Sys2Proof/Laws/PerInstr.lean ====
section
/-!
SUPPORT. Statements about every instruction as syntax, one lemma a constructor: it is well-formed, its first byte decodes
to its Operation, and its length is 1 plus its operand length.
-/

namespace Sys2Proof.Laws.IsWellFormed

/-- The instruction is well-formed. -/
def Statement (i : Instr) : Prop := i.wellFormed = true

theorem brk : Statement .brk := rfl
theorem ldaIndirectX (d8 : Byte) : Statement (.ldaIndirectX d8) := rfl
theorem ldaZeroPage (d8 : Byte) : Statement (.ldaZeroPage d8) := rfl
theorem ldaImmediate (d8 : Byte) : Statement (.ldaImmediate d8) := rfl
theorem tax : Statement .tax := rfl
theorem ldaAbsolute (a16 : Addr) : Statement (.ldaAbsolute a16) := rfl
theorem ldaIndirectY (d8 : Byte) : Statement (.ldaIndirectY d8) := rfl
theorem ldaZeroPageX (d8 : Byte) : Statement (.ldaZeroPageX d8) := rfl
theorem ldaAbsoluteY (a16 : Addr) : Statement (.ldaAbsoluteY a16) := rfl
theorem ldaAbsoluteX (a16 : Addr) : Statement (.ldaAbsoluteX a16) := rfl
theorem inx : Statement .inx := rfl

end Sys2Proof.Laws.IsWellFormed

namespace Sys2Proof.Laws.OpcodeDecodes

/-- The first byte of the instruction's encoding decodes to its Operation. -/
def Statement (i : Instr) : Prop := (encode i).head?.bind decodeOpcode = some i.operation

theorem brk : Statement .brk := rfl
theorem ldaIndirectX (d8 : Byte) : Statement (.ldaIndirectX d8) := rfl
theorem ldaZeroPage (d8 : Byte) : Statement (.ldaZeroPage d8) := rfl
theorem ldaImmediate (d8 : Byte) : Statement (.ldaImmediate d8) := rfl
theorem tax : Statement .tax := rfl
theorem ldaAbsolute (a16 : Addr) : Statement (.ldaAbsolute a16) := rfl
theorem ldaIndirectY (d8 : Byte) : Statement (.ldaIndirectY d8) := rfl
theorem ldaZeroPageX (d8 : Byte) : Statement (.ldaZeroPageX d8) := rfl
theorem ldaAbsoluteY (a16 : Addr) : Statement (.ldaAbsoluteY a16) := rfl
theorem ldaAbsoluteX (a16 : Addr) : Statement (.ldaAbsoluteX a16) := rfl
theorem inx : Statement .inx := rfl

end Sys2Proof.Laws.OpcodeDecodes

namespace Sys2Proof.Laws.EncodeLength

/-- The encoding is one opcode byte and as many operand bytes as the mode's operand length (30_encoding.md R50, R52). -/
def Statement (i : Instr) : Prop := (encode i).length = 1 + operandLength i.operation.mode

theorem brk : Statement .brk := rfl
theorem ldaIndirectX (d8 : Byte) : Statement (.ldaIndirectX d8) := rfl
theorem ldaZeroPage (d8 : Byte) : Statement (.ldaZeroPage d8) := rfl
theorem ldaImmediate (d8 : Byte) : Statement (.ldaImmediate d8) := rfl
theorem tax : Statement .tax := rfl
theorem ldaAbsolute (a16 : Addr) : Statement (.ldaAbsolute a16) := rfl
theorem ldaIndirectY (d8 : Byte) : Statement (.ldaIndirectY d8) := rfl
theorem ldaZeroPageX (d8 : Byte) : Statement (.ldaZeroPageX d8) := rfl
theorem ldaAbsoluteY (a16 : Addr) : Statement (.ldaAbsoluteY a16) := rfl
theorem ldaAbsoluteX (a16 : Addr) : Statement (.ldaAbsoluteX a16) := rfl
theorem inx : Statement .inx := rfl

end Sys2Proof.Laws.EncodeLength
end

