-- ==== Sys2Proof/Laws/Step.lean ====
section
/-!
SUPPORT. What a step can do, said once.
-/

namespace Sys2Proof.Machine

/-- Everything a step that answers a next state can have done: a halted core's stutter, a cycle that ended at dispatch
with UnknownOpcode, or a completed cycle. -/
theorem step_next_cases {s t : State} (h : step s = .next t) :
    s.faultLatch = none ∧ s.wasReset = true ∧
      ((s.runState = .halted ∧ t = s) ∨
       (s.runState ≠ .halted ∧ (∃ e, decode s.fetchBytes = .error e) ∧
          t = (s.writeRunState .running).fetch.raise (.unknownOpcode (Memory.read s.mem s.pc) s.pc)) ∨
       (s.runState ≠ .halted ∧ ∃ i rest u, decode s.fetchBytes = .ok (i, rest) ∧
          exec i (s.writeRunState .running).fetch = .next u ∧
          t = defaultAdvance (add16 s.pc 1) (operandLength i.operation.mode) u)) := by
  have hcycle : ∀ r, cycle (s.writeRunState r) = .next t →
      ((∃ e, decode s.fetchBytes = .error e) ∧
          t = (s.writeRunState r).fetch.raise (.unknownOpcode (Memory.read s.mem s.pc) s.pc)) ∨
      (∃ i rest u, decode s.fetchBytes = .ok (i, rest) ∧ exec i (s.writeRunState r).fetch = .next u ∧
          t = defaultAdvance (add16 s.pc 1) (operandLength i.operation.mode) u) := by
    intro r hr
    have hbytes : (s.writeRunState r).fetchBytes = s.fetchBytes := rfl
    unfold cycle at hr
    rw [hbytes] at hr
    rcases hd : decode s.fetchBytes with e | ⟨i, rest⟩
    · rw [hd] at hr
      exact .inl ⟨⟨e, rfl⟩, (Host.Outcome.next.inj hr).symm⟩
    · rw [hd] at hr
      rcases hu : exec i (s.writeRunState r).fetch with u | f | f
      · simp only [hu] at hr
        exact .inr ⟨i, rest, u, rfl, hu, (Host.Outcome.next.inj hr).symm⟩
      · simp only [hu, reduceCtorEq] at hr
      · simp only [hu, reduceCtorEq] at hr
  unfold step singleStep at h
  cases hl : s.faultLatch with
  | some f => simp [hl] at h
  | none =>
    cases hw : s.wasReset with
    | false => simp [hl, hw] at h
    | true =>
      refine ⟨rfl, rfl, ?_⟩
      cases hr : s.runState with
      | halted => simp [hl, hw, hr] at h; exact .inl ⟨rfl, h.symm⟩
      | idle =>
        simp only [hl, hw, hr, if_true] at h
        rcases hcycle _ h with h' | h'
        · exact .inr (.inl ⟨by decide, h'⟩)
        · exact .inr (.inr ⟨by decide, h'⟩)
      | running =>
        simp only [hl, hw, hr, if_true] at h
        rcases hcycle _ h with h' | h'
        · exact .inr (.inl ⟨by decide, h'⟩)
        · exact .inr (.inr ⟨by decide, h'⟩)

/-- A core whose latch is set makes no step. -/
theorem step_of_latched {s : State} {f : Fault} (h : s.faultLatch = some f) : step s = .fault f := by
  simp [step, singleStep, h]

/-- A halted core's step changes nothing. -/
theorem step_of_halted {s : State} (hl : s.faultLatch = none) (hw : s.wasReset = true) (hr : s.runState = .halted) :
    step s = .next s := by
  simp [step, singleStep, hl, hw, hr]

/-- The step of a core that is neither faulted nor halted, after a reset, is one cycle of it running. -/
theorem step_of_not_halted {s : State} (hl : s.faultLatch = none) (hw : s.wasReset = true)
    (hr : s.runState ≠ .halted) : step s = cycle (s.writeRunState .running) := by
  unfold step singleStep
  simp only [hl, hw, if_true]
  cases h : s.runState with
  | halted => exact absurd h hr
  | idle => rfl
  | running => rfl

/-- The step of a core that no reset has been performed on is refused. -/
theorem step_of_not_reset {s : State} (hl : s.faultLatch = none) (hw : s.wasReset = false) :
    step s = .refused .notReset := by
  simp [step, singleStep, hl, hw]

end Sys2Proof.Machine
end

