-- ==== Sys2Proof/Laws/Run.lean ====
section
/-!
SUPPORT. One unfolding of a run: of the host's interface, and of `run()`.
-/

namespace Sys2Proof.Machine

/-- `k + 1` steps of the machine behind the interface. -/
theorem core_run_succ (k : Nat) (s : State) :
    Host.Core.run Sys2Proof.core (k + 1) s =
      match step s with
      | .next t => Host.Core.run Sys2Proof.core k t
      | .fault f => .fault f
      | .refused r => .refused r := by
  have hstep : Sys2Proof.core.step s = step s := rfl
  refine (Host.Core.run.eq_2 Sys2Proof.core s k).trans ?_
  cases h : step s <;> simp only [hstep, h]

/-- `run()` with fuel left. -/
theorem hostRun_succ (fuel : Nat) (s : State) :
    hostRun (fuel + 1) s =
      match step s with
      | .next t => if t.runState = .halted then .next t else hostRun fuel t
      | .fault f => .fault f
      | .refused r => .refused r := by
  cases h : step s <;> simp [hostRun, h]

end Sys2Proof.Machine
end

