-- ==== Sys2Proof/Tests/Slice0.lean ====
section
/-!
SUPPORT. The model's own tests: expected results from spec/95_test_vectors.md (its row named in each comment) and from
the encodings of spec/30_encoding.md; and, for each statement with hypotheses, a concrete state that meets them.
-/

namespace Sys2Proof.Tests

open Sys2Proof.Machine

/-! ### Helpers -/

/-- A running core after a reset: registers, PC, and memory with the given cells. -/
def core (a x y p : Byte) (pc : Addr) (cells : List (Addr × Byte)) : State :=
  { a := a, x := x, y := y, p := p, pc := pc, runState := .running, faultLatch := none, wasReset := true,
    mem := cells.foldl (fun m c => Memory.write m c.1 c.2) [] }

/-- The outcome is a next state of which `f` holds. -/
def nextIs (o : Host.Outcome State Fault Refusal) (f : State → Bool) : Bool :=
  match o with
  | .next s => f s
  | .fault _ => false
  | .refused _ => false

/-- The outcome is this fault. -/
def faultIs (o : Host.Outcome State Fault Refusal) (f : Fault) : Bool :=
  match o with
  | .next _ => false
  | .fault g => g == f
  | .refused _ => false

/-- The outcome is this refusal. -/
def refusedIs (o : Host.Outcome State Fault Refusal) (r : Refusal) : Bool :=
  match o with
  | .next _ => false
  | .fault _ => false
  | .refused q => q == r

/-- A, the zero flag, the negative flag and PC are these. -/
def shows (a : Byte) (z n : Bool) (pc : Addr) (s : State) : Bool :=
  s.a == a && s.flag .zero == z && s.flag .negative == n && s.pc == pc

/-- X, the zero flag, the negative flag and PC are these. -/
def showsX (x : Byte) (z n : Bool) (pc : Addr) (s : State) : Bool :=
  s.x == x && s.flag .zero == z && s.flag .negative == n && s.pc == pc

/-! ### Well-formedness: an ill-formed Operation for each check -/

theorem test_lda_none_ill_formed : Operation.wellFormed ⟨.lda, .none⟩ = false := by decide
theorem test_lda_zeroPageY_ill_formed : Operation.wellFormed ⟨.lda, .zeroPageY⟩ = false := by decide
theorem test_tax_immediate_ill_formed : Operation.wellFormed ⟨.tax, .immediate⟩ = false := by decide
theorem test_inx_zeroPage_ill_formed : Operation.wellFormed ⟨.inx, .zeroPage⟩ = false := by decide
theorem test_brk_absolute_ill_formed : Operation.wellFormed ⟨.brk, .absolute⟩ = false := by decide
theorem test_lda_absolute_well_formed : Instr.wellFormed (.ldaAbsolute 0x1234) = true := by decide

/-! ### Decoding: each row's word, written out bit by bit from the table's "encoding" (30_encoding.md R51, R55) -/

theorem test_decode_brk : decode [0b00000000] = .ok (.brk, []) := by rfl
theorem test_decode_ldaIndirectX : decode [0b10100001, 0b00100000] = .ok (.ldaIndirectX 0x20, []) := by rfl
theorem test_decode_ldaZeroPage : decode [0b10100101, 0b00010000] = .ok (.ldaZeroPage 0x10, []) := by rfl
theorem test_decode_ldaImmediate : decode [0b10101001, 0b00000101] = .ok (.ldaImmediate 0x05, []) := by rfl
theorem test_decode_tax : decode [0b10101010] = .ok (.tax, []) := by rfl
theorem test_decode_ldaAbsolute :
    decode [0b10101101, 0b00110100, 0b00010010] = .ok (.ldaAbsolute 0x1234, []) := by rfl
theorem test_decode_ldaIndirectY : decode [0b10110001, 0b10000110] = .ok (.ldaIndirectY 0x86, []) := by rfl
theorem test_decode_ldaZeroPageX : decode [0b10110101, 0b11111111] = .ok (.ldaZeroPageX 0xFF, []) := by rfl
theorem test_decode_ldaAbsoluteY :
    decode [0b10111001, 0b00000000, 0b00100000] = .ok (.ldaAbsoluteY 0x2000, []) := by rfl
theorem test_decode_ldaAbsoluteX :
    decode [0b10111101, 0b11110000, 0b00010010] = .ok (.ldaAbsoluteX 0x12F0, []) := by rfl
theorem test_decode_inx : decode [0b11101000] = .ok (.inx, []) := by rfl
/-- E12: the neighbours of mapped bytes are unmapped. -/
theorem test_decode_neighbours :
    ([0x01, 0xA0, 0xA2, 0xA8, 0xAB, 0xB6, 0xBE, 0xE7, 0xE9, 0xEA, 0xFF] : List Byte).all
      (fun b => decodeOpcode b == none) = true := by decide
theorem test_decode_truncated : decode [0xAD, 0x34] = .error .truncated := by rfl
/-- The table's numbering: the opcode is bits 7 to 0, the later bytes count on. -/
theorem test_decodeTableWord_absolute : decodeTableWord 24 0x1234AD = some (.ldaAbsolute 0x1234) := by decide
theorem test_decodeTableWord_short : decodeTableWord 8 0xE8 = some .inx ∧ decodeTableWord 8 0xEA = none := by decide

/-! ### Memory, resolver, ALU -/

/-- M5, M6: a word write crosses the page, and wraps at 0xFFFF. -/
theorem test_writeWord_edges :
    Memory.read (Memory.writeWord [] 0x00FF 0xBEEF) 0x0100 = 0xBE ∧
    Memory.read (Memory.writeWord [] 0xFFFF 0xBEEF) 0x0000 = 0xBE := by decide
/-- M4: the second byte of a word read at 0xFFFF is at 0x0000. -/
theorem test_readWord_wraps :
    Memory.readWord (Memory.write (Memory.write [] 0xFFFF 0x34) 0x0000 0x12) 0xFFFF = 0x1234 := by decide
/-- Writing what an unlisted address reads as removes the entry. -/
theorem test_write_unlisted_removes : Memory.write (Memory.write [] 0x10 0x55) 0x10 unlistedByte = [] := by decide
/-- M8, M9: the boundary of the bus load. -/
theorem test_busLoad_boundary :
    (State.busLoad State.reset 0xFFFE [1, 2]).faultLatch = none ∧
    (State.busLoad State.reset 0xFFFE [1, 2]).cell 0xFFFF = 2 ∧
    State.busLoad State.reset 0xFFFE [1, 2, 3] =
      { State.reset with faultLatch := some (.loadOutOfRange 0xFFFE 3) } := by decide
/-- T18: the pointer of IndirectX stays in page zero. -/
theorem test_translate_indirectX :
    translateMode .indirectX (core 0 0x01 0 0 0x8001
      [(0x8001, 0xFE), (0x00FF, 0xCD), (0x0000, 0xAB), (0x0100, 0x77)]) = .ok 0xABCD := by rfl
/-- T21: the pointer of IndirectY stays in page zero and the sum wraps at 16 bits. -/
theorem test_translate_indirectY :
    translateMode .indirectY (core 0 0 0x01 0 0x8001
      [(0x8001, 0xFF), (0x00FF, 0xFF), (0x0000, 0xFF), (0x0100, 0x00)]) = .ok 0x0000 := by rfl
/-- T9: ZeroPageY does not use X. -/
theorem test_translate_zeroPageY :
    translateMode .zeroPageY (core 0 0xFF 0x0F 0 0x8001 [(0x8001, 0x10)]) = .ok 0x001F := by rfl
/-- F3, F4. -/
theorem test_alu_wraps : add8 0x80 0x80 = 0x00 ∧ add16 0xFF80 0x00FF = 0x007F ∧ inc8 0xFF = 0x00 := by decide
/-- F8: both flags are cleared, not left. -/
theorem test_setZN_clears : setZN 0x82 0x05 = 0x00 := by decide

/-! ### Instructions, one full cycle each -/

/-- L2. -/
theorem test_ldaImmediate_negative :
    nextIs (step (core 0x11 0 0 0 0x8000 [(0x8000, 0xA9), (0x8001, 0x80)])) (shows 0x80 false true 0x8002) = true := by
  decide
/-- P2: the operand of an opcode at 0xFFFF is at 0x0000. -/
theorem test_ldaImmediate_wraps :
    nextIs (step (core 0x11 0 0 0 0xFFFF [(0xFFFF, 0xA9), (0x0000, 0x80)])) (shows 0x80 false true 0x0001) = true := by
  decide
/-- L5. -/
theorem test_ldaZeroPage_top :
    nextIs (step (core 0x11 0 0 0 0x8000 [(0x8000, 0xA5), (0x8001, 0xFF), (0x00FF, 0x00)]))
      (shows 0x00 true false 0x8002) = true := by decide
/-- L6: the sum stays in page zero. -/
theorem test_ldaZeroPageX_wraps :
    nextIs (step (core 0x11 0x01 0 0 0x8000 [(0x8000, 0xB5), (0x8001, 0xFF), (0x0000, 0x80), (0x0100, 0x01)]))
      (shows 0x80 false true 0x8002) = true := by decide
/-- L9: the instruction reads its own opcode byte. -/
theorem test_ldaAbsolute_own_opcode :
    nextIs (step (core 0x11 0 0 0 0x8000 [(0x8000, 0xAD), (0x8001, 0x00), (0x8002, 0x80)]))
      (shows 0xAD false true 0x8003) = true := by decide
/-- P3: the instruction lies across the top of memory. -/
theorem test_ldaAbsolute_straddles :
    nextIs (step (core 0x11 0 0 0 0xFFFE [(0xFFFE, 0xAD), (0xFFFF, 0x10), (0x0000, 0x00), (0x0010, 0x07)]))
      (shows 0x07 false false 0x0001) = true := by decide
/-- L12: the sum wraps at 16 bits. -/
theorem test_ldaAbsoluteX_wraps :
    nextIs (step (core 0x11 0x01 0 0 0x8000 [(0x8000, 0xBD), (0x8001, 0xFF), (0x8002, 0xFF), (0x0000, 0x42)]))
      (shows 0x42 false false 0x8003) = true := by decide
/-- L13. -/
theorem test_ldaAbsoluteY :
    nextIs (step (core 0x11 0x33 0x05 0 0x8000 [(0x8000, 0xB9), (0x8001, 0x00), (0x8002, 0x20), (0x2005, 0xFF)]))
      (shows 0xFF false true 0x8003) = true := by decide
/-- L16: both wraps, the high byte from 0x0000. -/
theorem test_ldaIndirectX_wraps :
    nextIs (step (core 0x11 0x01 0 0 0x8000 [(0x8000, 0xA1), (0x8001, 0xFE), (0x00FF, 0xCD), (0x0000, 0xAB),
      (0x0100, 0x77), (0xABCD, 0x80), (0x77CD, 0x01)])) (shows 0x80 false true 0x8002) = true := by decide
/-- L17. -/
theorem test_ldaIndirectY :
    nextIs (step (core 0x11 0 0x10 0 0x8000 [(0x8000, 0xB1), (0x8001, 0x86), (0x0086, 0x28), (0x0087, 0x40),
      (0x4038, 0x01)])) (shows 0x01 false false 0x8002) = true := by decide
/-- X1: the flags do not keep what they held. -/
theorem test_tax_zero :
    nextIs (step (core 0x00 0x55 0 0x80 0x8000 [(0x8000, 0xAA)])) (showsX 0x00 true false 0x8001) = true := by decide
/-- I1: the wrap, with A not zero; C stays 0. -/
theorem test_inx_wraps :
    nextIs (step (core 0x33 0xFF 0 0 0x8000 [(0x8000, 0xE8)]))
      (fun t => showsX 0x00 true false 0x8001 t && t.p == 0x02) = true := by decide
/-- I3: the flags come from X, not from A. -/
theorem test_inx_flags_from_x :
    nextIs (step (core 0x00 0x7F 0 0 0x8000 [(0x8000, 0xE8)])) (showsX 0x80 false true 0x8001) = true := by decide
/-- B1: BRK halts and changes no register but PC. -/
theorem test_brk_halts :
    nextIs (step (core 0x12 0x34 0 0x80 0x8000 [(0x8000, 0x00)]))
      (fun t => t == { core 0x12 0x34 0 0x80 0x8001 [(0x8000, 0x00)] with runState := .halted }) = true := by decide
/-- B2: BRK at the top of memory. -/
theorem test_brk_wraps :
    nextIs (step (core 0 0 0 0 0xFFFF [(0xFFFF, 0x00)])) (fun t => t.pc == 0x0000 && t.runState == .halted) = true := by
  decide

/-! ### The cycle, faults, reset, the host -/

/-- The state of G3 after its first cycle. -/
def faulted : State :=
  { core 0 0 0 0 0x8001 [(0x8000, 0xFF)] with faultLatch := some (.unknownOpcode 0xFF 0x8000) }
/-- G3: UnknownOpcode names the byte and its address, and PC has moved by 1. -/
theorem test_unknown_opcode :
    nextIs (step (core 0 0 0 0 0x8000 [(0x8000, 0xFF)])) (fun t => t == faulted) = true := by decide
/-- G4: a faulted core accepts no step and no reset. -/
theorem test_faulted_core_stops :
    faultIs (step faulted) (.unknownOpcode 0xFF 0x8000) = true ∧
    faultIs (hostReset faulted) (.unknownOpcode 0xFF 0x8000) = true := by decide
/-- Z1: reset. -/
theorem test_reset :
    nextIs (hostReset (core 0x12 0x34 0 0x82 0x1234 [(0xFFFC, 0xCD), (0xFFFD, 0xAB)]))
      (fun t => t == { core 0 0 0 0 0xABCD [(0xFFFC, 0xCD), (0xFFFD, 0xAB)] with runState := .idle }) = true := by decide
/-- 10_state.md section 8: load and reset of A9 05 00 at 0x8000. -/
theorem test_load_and_reset :
    nextIs (andThen (hostLoadAt 0x8000 [0xA9, 0x05, 0x00] (State.powerOn 1 2 3 4 5 [])) hostReset)
      (fun t => t.pc == 0x8000 && t.cell 0x8001 == 0x05 && t.cell 0xFFFC == 0x00 && t.cell 0xFFFD == 0x80) = true := by
  decide
/-- The host table of 70_reset_and_hazards.md R168: loadAndRun is Idle's and Halted's, not Running's. -/
theorem test_loadAndRun_at_rest :
    nextIs (hostLoadAndRunAt 0x8000 [0xA9, 0x05, 0x00] 2 (State.powerOn 1 2 3 4 5 []))
      (fun t => t.a == 0x05 && t.pc == 0x8003 && t.runState == .halted) = true ∧
    nextIs (hostLoadAndRunAt 0x8000 [0xE8, 0x00] 2 { core 9 9 0 0 0x1234 [] with runState := .halted })
      (fun t => t.x == 0x01 && t.pc == 0x8002 && t.runState == .halted) = true ∧
    refusedIs (hostLoadAndRunAt 0x8000 [0xE8, 0x00] 2 (core 9 9 0 0 0x1234 [])) .notAtRest = true := by decide
/-- The host's pokes at general addresses, before the first reset (70_reset_and_hazards.md R167; M5 for the word). -/
theorem test_pokes :
    nextIs (hostWrite 0x1234 0x56 (State.powerOn 1 2 3 4 5 [])) (fun t => t.mem == [(0x1234, 0x56)]) = true ∧
    nextIs (hostWriteWord 0x00FF 0xBEEF (State.powerOn 1 2 3 4 5 []))
      (fun t => t.mem == [(0x00FF, 0xEF), (0x0100, 0xBE)]) = true ∧
    nextIs (hostBusLoad 0x0010 [1, 2] (State.powerOn 1 2 3 4 5 [])) (fun t => t.mem == [(0x10, 1), (0x11, 2)]) = true := by
  decide
/-- Z3: nothing runs before the first reset. -/
theorem test_no_step_before_reset :
    refusedIs (step (State.powerOn 1 2 3 4 5 [])) .notReset = true := by decide
/-- The state right after reset runs an instruction placed where it fetches. -/
theorem test_withFetchWord :
    nextIs (step (State.reset.withFetchWord 16 0x05A9)) (shows 0x05 false false 0x0001) = true ∧
    nextIs (step (State.reset.withFetchWord 8 0xE8)) (showsX 0x01 false false 0x0000) = true := by decide
/-- R171: an execute step that had moved PC keeps what it wrote. -/
theorem test_default_advance_suppressed :
    (defaultAdvance 0x8001 2 (core 0 0 0 0 0x9000 [])).pc = 0x9000 ∧
    (defaultAdvance 0x8001 2 (core 0 0 0 0 0x8001 [])).pc = 0x8003 := by decide

/-! ### Witnesses: the hypotheses of each statement can be met together -/

/-- EncodeOfDecode. -/
theorem witness_decoded_bytes : decode [0xBD, 0xFF, 0xFF, 0x00] = .ok (.ldaAbsoluteX 0xFFFF, [0x00]) := by rfl
/-- BusLoadCopiesInRange, EngineLoadPlacesProgramAndVector, BootEntersAtTheOrigin, HostPokesWriteTheirCells: at the end of memory, and empty. -/
theorem witness_load_in_range :
    State.reset.faultLatch = none ∧ (0xFFFE : Addr).toNat + ([1, 2] : List Byte).length ≤ 65536 ∧
    (0xFFFF : Addr).toNat + ([] : List Byte).length ≤ 65536 := by decide
/-- BootEntersAtTheOrigin's two clauses on loadAndRun: Idle, Halted, and Running with the latch None. -/
theorem witness_at_rest_and_running :
    State.reset.runState ≠ .running ∧ ({ core 1 2 3 0 0 [] with runState := .halted } : State).runState ≠ .running ∧
    (core 1 2 3 0 0 []).faultLatch = none ∧ (core 1 2 3 0 0 []).runState = .running := by decide
/-- EngineLoadPlacesProgramAndVector's clause on cells outside the program. -/
theorem witness_load_outside : (0x8003 : Addr).toNat ≥ (0x8000 : Addr).toNat + ([1, 2, 3] : List Byte).length ∧
    (0x7FFF : Addr).toNat < (0x8000 : Addr).toNat := by decide
/-- LoadOutOfRangeIsTheHostsFault: the least refused length; and a step that answers a next state. -/
theorem witness_load_out_of_range :
    State.reset.faultLatch = none ∧ 65536 < (0xFFFE : Addr).toNat + ([1, 2, 3] : List Byte).length := by decide
/-- EqualReadsAreEqualMemories. -/
theorem witness_canonical_memory :
    Memory.wf [(0, 0x80), (65535, 0xA9)] = true ∧ Memory.wf [(0, 0xFF)] = false ∧ Memory.wf [(1, 0), (1, 0)] = false := by
  decide
/-- A ready core whose PC is at each opcode byte: the cycles of LDA, TAX, INX and BRK, MappedOpcodesComplete,
PcMovesToTheNextInstruction, LdaLoadsFromTheResolvedAddress, HaltedExactlyOnBrk. -/
theorem witness_ready_at_each_opcode :
    ([0x00, 0xA1, 0xA5, 0xA9, 0xAA, 0xAD, 0xB1, 0xB5, 0xB9, 0xBD, 0xE8] : List Byte).all (fun b =>
      decide ((core 1 2 3 0 0xFFFF [(0xFFFF, b)]).Ready) && (core 1 2 3 0 0xFFFF [(0xFFFF, b)]).opcode == b &&
      (decodeOpcode b).isSome && nextIs (step (core 1 2 3 0 0xFFFF [(0xFFFF, b)])) (fun _ => true)) = true := by decide
/-- StepRunsTheDecodedInstruction, ExecAgreesWithTheResolver. -/
theorem witness_step_runs :
    (core 1 2 3 0 0xFFFE [(0xFFFE, 0xAD), (0xFFFF, 0x34), (0, 0x12)]).Ready ∧
    Instr.wellFormed (.ldaAbsolute 0x1234) = true ∧
    decode (core 1 2 3 0 0xFFFE [(0xFFFE, 0xAD), (0xFFFF, 0x34), (0, 0x12)]).fetchBytes =
      .ok (.ldaAbsolute 0x1234, []) :=
  ⟨by decide, by decide, rfl⟩
/-- UnmappedBytesRaiseUnknownOpcode, UnknownOpcodeIsPrecise, PokeIsSeenByTheNextFetch: both ends of each range. -/
theorem witness_unmapped :
    ([0x01, 0xA0, 0xA2, 0xA4, 0xA6, 0xA8, 0xAB, 0xAC, 0xAE, 0xB0, 0xB2, 0xB4, 0xB6, 0xB8, 0xBA, 0xBC, 0xBE, 0xE7, 0xE9,
      0xFF] : List Byte).all (fun b => decide ((core 1 2 3 0 0 [(0, b)]).Ready) &&
        decide (UnmappedOpcode (core 1 2 3 0 0 [(0, b)]).opcode)) = true := by decide
/-- FlagsFollowTheWrittenRegister, InstructionsWriteOnlyTheirOwn, WriteChangesOneCell: an execute step of each mnemonic
answers a next state. -/
theorem witness_exec_answers :
    ([.ldaImmediate 0x80, .tax, .inx, .brk] : List Instr).all
      (fun i => nextIs (exec i (core 1 2 3 0 0 [])) (fun _ => true)) = true := by decide
/-- LdaIgnoresOldAccumulatorAndFlags: two states that differ in A and P only. -/
theorem witness_lda_two_states :
    Instr.operation (.ldaZeroPageX 0xFF) = ⟨.lda, .zeroPageX⟩ ∧
    nextIs (exec (.ldaZeroPageX 0xFF) (core 1 2 3 0x00 0 [(1, 0x80)])) (fun t => t.a == 0x80) = true ∧
    nextIs (exec (.ldaZeroPageX 0xFF) (core 9 2 3 0x82 0 [(1, 0x80)])) (fun t => t.a == 0x80) = true := by decide
/-- The same two states read alike everywhere. -/
theorem witness_lda_same_memory :
    SameMemory (core 1 2 3 0x00 0 [(1, 0x80)]) (core 9 2 3 0x82 0 [(1, 0x80)]) := fun _ => rfl
/-- NoStepWritesMemory, UnsupportedModeIsNeverReached: a step answers a next state, on a mapped and on an unmapped byte. -/
theorem witness_step_answers :
    nextIs (step (core 1 2 3 0 0 [(0, 0xE8)])) (fun _ => true) = true ∧
    nextIs (step (core 1 2 3 0 0 [(0, 0xEA)])) (fun _ => true) = true ∧
    (core 1 2 3 0 0 [(0, 0xE8)]).faultLatch = none := by decide
/-- EndedIsFinal. -/
theorem witness_ended :
    State.Ended { core 1 2 3 0 0 [] with runState := .halted } ∧ (core 1 2 3 0 0 []).wasReset = true := by decide
/-- EndlessRunsFetchMappedOpcodes: two cycles of INX. -/
theorem witness_endless :
    (core 0 0 0 0 0 [(0, 0xE8), (1, 0xE8)]).Ready ∧
    nextIs (Host.Core.run Sys2Proof.core 2 (core 0 0 0 0 0 [(0, 0xE8), (1, 0xE8)])) (fun t => decide t.Ready) = true := by
  decide
/-- LatchedCoreAcceptsNothing. -/
theorem witness_latched : faulted.faultLatch = some (.unknownOpcode 0xFF 0x8000) := by decide
/-- RunIsRefusedBeforeReset. -/
theorem witness_before_reset :
    (State.powerOn 1 2 3 4 5 []).faultLatch = none ∧ (State.powerOn 1 2 3 4 5 []).wasReset = false := by decide
/-- ResetZeroesAndTakesTheVector, ViewsAnswerTheRegisters. -/
theorem witness_after_reset : State.reset.faultLatch = none ∧ State.reset.wasReset = true := by decide
/-- InvariantKeptByEveryStep, InvariantKeptByTheHost: a state with the invariant that steps and accepts a reset. -/
theorem witness_invariant :
    (core 5 6 0 0x80 0 [(0, 0xE8)]).Inv ∧ nextIs (step (core 5 6 0 0x80 0 [(0, 0xE8)])) (fun _ => true) = true ∧
    nextIs (hostAct .reset (core 5 6 0 0x80 0 [(0, 0xE8)])) (fun _ => true) = true := by
  refine ⟨⟨by decide, fun _ => rfl, fun _ f hf => ?_, fun _ => by decide⟩, by decide, by decide⟩
  cases f <;> first | decide | exact absurd rfl hf.1 | exact absurd rfl hf.2

end Sys2Proof.Tests
end

/-!
PROOFS. Memory (20_memory.md): what a cell reads after a write, what an execute step can do, and that neither an execute
step nor a step of the core changes memory.
-/

namespace Sys2Proof.Machine

/-! ### A cell after a write -/

/-- Leaving out an address keeps what is listed at every other. -/
theorem Memory.lookup_erase_of_ne {n k : Nat} (h : k ≠ n) :
    ∀ m : Memory, Memory.lookup (Memory.erase m n) k = Memory.lookup m k
  | [] => rfl
  | (j, w) :: rest => by
    have ih := Memory.lookup_erase_of_ne h rest
    by_cases hj : j = n
    · have hjk : j ≠ k := fun e => h (e.symm.trans hj)
      rw [Memory.erase, if_pos hj, ih, Memory.lookup, if_neg hjk]
    · simp [Memory.erase, Memory.lookup, hj, ih]

/-- A pair put in place is listed, if its address was not: an older pair could stand before it. -/
theorem Memory.lookup_insert_self {n : Nat} (v : Byte) :
    ∀ {m : Memory}, Memory.lookup m n = none → Memory.lookup (Memory.insert m n v) n = some v
  | [], _ => by simp [Memory.insert, Memory.lookup]
  | (k, w) :: rest, hfresh => by
    have hne : k ≠ n := fun e => by simp [Memory.lookup, e] at hfresh
    rw [Memory.lookup, if_neg hne] at hfresh
    by_cases hlt : n < k
    · simp [Memory.insert, Memory.lookup, hlt]
    · simp [Memory.insert, Memory.lookup, hlt, hne, Memory.lookup_insert_self v hfresh]

/-- A pair put in place keeps what is listed at every other address. -/
theorem Memory.lookup_insert_of_ne {n k : Nat} (v : Byte) (h : k ≠ n) :
    ∀ m : Memory, Memory.lookup (Memory.insert m n v) k = Memory.lookup m k
  | [] => by simp [Memory.insert, Memory.lookup, h.symm]
  | (j, w) :: rest => by
    by_cases hlt : n < j
    · simp [Memory.insert, Memory.lookup, hlt, h.symm]
    · simp [Memory.insert, Memory.lookup, hlt, Memory.lookup_insert_of_ne v h rest]

/-- The written cell reads what was written (20_memory.md R32). -/
@[simp] theorem Memory.read_write_self (m : Memory) (a : Addr) (v : Byte) :
    Memory.read (Memory.write m a v) a = v := by
  have hfresh := Memory.lookup_erase_self a.toNat m
  by_cases hv : v = unlistedByte
  · simp [Memory.read, Memory.write, hv, hfresh]
  · simp [Memory.read, Memory.write, hv, Memory.lookup_insert_self v hfresh]

/-- Every other cell reads as before (20_memory.md R32). -/
theorem Memory.read_write_of_ne (m : Memory) {a b : Addr} (v : Byte) (h : b ≠ a) :
    Memory.read (Memory.write m a v) b = Memory.read m b := by
  have hne : b.toNat ≠ a.toNat := fun e => h (BitVec.eq_of_toNat_eq e)
  by_cases hv : v = unlistedByte
  · simp [Memory.read, Memory.write, hv, Memory.lookup_erase_of_ne hne]
  · simp [Memory.read, Memory.write, hv, Memory.lookup_insert_of_ne v hne, Memory.lookup_erase_of_ne hne]

/-- Both cases of a read after a write in one equation. -/
theorem Memory.read_write (m : Memory) (a b : Addr) (v : Byte) :
    Memory.read (Memory.write m a v) b = if b = a then v else Memory.read m b := by
  by_cases h : b = a
  · rw [if_pos h, h, Memory.read_write_self]
  · rw [if_neg h, Memory.read_write_of_ne m v h]

/-! ### The second address of a word -/

/-- The address after `a`, modulo 65536 (20_memory.md R33). -/
theorem add16_one (a : Addr) : add16 a 1 = BitVec.ofNat 16 ((a.toNat + 1) % 65536) := by
  apply BitVec.eq_of_toNat_eq
  simp [add16]

/-! ### What leaves memory as it was -/

/-- Everything an execute step can have done: LDA loaded A, TAX and INX loaded X, BRK halted the core. -/
theorem exec_next_cases {i : Instr} {s t : State} (h : exec i s = .next t) :
    (i.operation.mnemonic = .lda ∧ ∃ v, t = s.loadA v) ∨
    (i = .tax ∧ t = s.loadX s.a) ∨
    (i = .inx ∧ t = s.loadX (inc8 s.x)) ∨
    (i = .brk ∧ t = s.writeRunState .halted) := by
  cases i with
  | brk => exact .inr (.inr (.inr ⟨rfl, (Host.Outcome.next.inj h).symm⟩))
  | tax => exact .inr (.inl ⟨rfl, (Host.Outcome.next.inj h).symm⟩)
  | inx => exact .inr (.inr (.inl ⟨rfl, (Host.Outcome.next.inj h).symm⟩))
  | ldaIndirectX | ldaZeroPage | ldaImmediate | ldaAbsolute | ldaIndirectY | ldaZeroPageX | ldaAbsoluteY
  | ldaAbsoluteX => exact .inl ⟨rfl, _, (Host.Outcome.next.inj h).symm⟩

/-- No instruction's execute step writes memory (20_memory.md R45). -/
theorem exec_mem {i : Instr} {s t : State} (h : exec i s = .next t) : t.mem = s.mem := by
  obtain ⟨-, v, rfl⟩ | ⟨-, rfl⟩ | ⟨-, rfl⟩ | ⟨-, rfl⟩ := exec_next_cases h
  · exact State.loadA_mem s v
  · exact State.loadX_mem s s.a
  · exact State.loadX_mem s (inc8 s.x)
  · exact State.writeRunState_mem s .halted

/-- The default advance moves PC at most. -/
@[simp] theorem defaultAdvance_mem (pcSeen : Addr) (length : Nat) (s : State) :
    (defaultAdvance pcSeen length s).mem = s.mem := by
  by_cases h : s.pc = pcSeen
  · rw [defaultAdvance_of_eq length h, State.writePc_mem]
  · rw [defaultAdvance_of_ne length h]

/-- A halted core's stutter, a fault at dispatch and a completed cycle all leave memory as it was (20_memory.md R45). -/
theorem step_mem {s t : State} (h : step s = .next t) : t.mem = s.mem := by
  obtain ⟨-, -, ⟨-, rfl⟩ | ⟨-, -, rfl⟩ | ⟨-, i, rest, u, -, hexec, rfl⟩⟩ := step_next_cases h
  · rfl
  · simp
  · simp [exec_mem hexec]

/-- An equal memory reads alike at every address. -/
theorem SameMemory.of_mem_eq {s t : State} (h : t.mem = s.mem) : SameMemory s t := fun a => by rw [h]

/-! ### The statements -/

/-- Settles O8: a read after a write, and the frame of the execute step. -/
theorem writeChangesOneCell : Obligations.WriteChangesOneCell :=
  ⟨Memory.read_write, fun _ _ _ h => .of_mem_eq (exec_mem h)⟩

/-- Settles O39: whatever a step did, it left memory as it was. -/
theorem noStepWritesMemory : Obligations.NoStepWritesMemory :=
  fun _ _ h => .of_mem_eq (step_mem h)

/-- Settles O9: the word's value as a number, its high byte at the address after `a`. -/
theorem wordReadIsLittleEndian : Obligations.WordReadIsLittleEndian := by
  intro m a
  rw [Memory.readWord, wordOf_toNat, add16_one]

end Sys2Proof.Machine

/-!
PROOFS. The addressing-mode resolver (40_addressing_modes.md): each part of an effective address as a number, with the
8-bit wrap of a sum inside page zero and the 16-bit wrap of a sum over all of memory, and from these every mode's address.
-/

namespace Sys2Proof.Machine

/-! ### The parts of an effective address -/

/-- Zero extension keeps the byte's value, so the address is in page zero. -/
theorem zext16_eq_ofNat (b : Byte) : zext16 b = BitVec.ofNat 16 b.toNat :=
  (BitVec.ofNat_toNat 16 b).symm

/-- A sum of bytes taken as an address wraps inside page zero (40_addressing_modes.md R73). -/
theorem zext16_add8 (a b : Byte) : zext16 (add8 a b) = BitVec.ofNat 16 ((a.toNat + b.toNat) % 256) := by
  rw [zext16_eq_ofNat, add8, BitVec.toNat_add]

/-- A byte added to an address wraps modulo 65536 (40_addressing_modes.md R76). -/
theorem add16_zext16 (a : Addr) (b : Byte) :
    add16 a (zext16 b) = BitVec.ofNat 16 ((a.toNat + b.toNat) % 65536) := by
  apply BitVec.eq_of_toNat_eq
  simp [add16]

/-- Both bytes of a zero-page pointer are in page zero, the second at the wrapped address (40_addressing_modes.md R83). -/
theorem zpPtrRead_toNat (m : Memory) (p : Byte) :
    (zpPtrRead m p).toNat =
      (Memory.read m (BitVec.ofNat 16 ((p.toNat + 1) % 256))).toNat * 256 +
        (Memory.read m (BitVec.ofNat 16 p.toNat)).toNat := by
  rw [zpPtrRead, wordOf_toNat, zext16_add8, zext16_eq_ofNat]
  rfl

/-- The pointer read of the resolver is the pointer the statements speak of. -/
theorem zpPtrRead_toNat_eq_pointer (s : State) (p : Byte) : (zpPtrRead s.mem p).toNat = s.pointer p.toNat := by
  rw [zpPtrRead_toNat, State.pointer, Nat.mod_eq_of_lt p.isLt]
  rfl

/-- The operand byte is the cell at PC (40_addressing_modes.md R84). -/
theorem State.operandByte_eq_cell (s : State) : s.operandByte = s.cell s.pc.toNat := by
  rw [State.operandByte, State.cell, BitVec.ofNat_toNat, BitVec.setWidth_eq]

/-- The operand word has its high byte in the cell after PC (40_addressing_modes.md R75). -/
theorem State.operandWord_toNat (s : State) :
    s.operandWord.toNat = (s.cell ((s.pc.toNat + 1) % 65536)).toNat * 256 + (s.cell s.pc.toNat).toNat := by
  rw [State.operandWord, wordReadIsLittleEndian, ← State.operandByte_eq_cell]
  rfl

/-! ### The indirect modes -/

/-- IndirectX adds X to the pointer's place, inside page zero (40_addressing_modes.md R78). -/
theorem addressIndirectX_eq (d8 : Byte) (s : State) :
    addressIndirectX d8 s = BitVec.ofNat 16 (s.pointer ((d8.toNat + s.x.toNat) % 256)) := by
  rw [addressIndirectX, ← BitVec.toNat_add, ← zpPtrRead_toNat_eq_pointer, BitVec.ofNat_toNat, BitVec.setWidth_eq]
  rfl

/-- IndirectY adds Y to the pointer's value, at 16 bits (40_addressing_modes.md R79). -/
theorem addressIndirectY_eq (d8 : Byte) (s : State) :
    addressIndirectY d8 s = BitVec.ofNat 16 ((s.pointer d8.toNat + s.y.toNat) % 65536) := by
  rw [addressIndirectY, add16_zext16, zpPtrRead_toNat_eq_pointer]

/-! ### The statements -/

/-- Settles O15: the pointer read as a number, for every memory and byte. -/
theorem zeroPagePointerStaysInPageZero : Obligations.ZeroPagePointerStaysInPageZero :=
  zpPtrRead_toNat

/-- Settles O16: one equation per mode, from the operand at PC and the sums that wrap. -/
theorem resolverComputesEveryMode : Obligations.ResolverComputesEveryMode := by
  intro s
  rw [← State.operandWord_toNat, ← State.operandByte_eq_cell]
  refine ⟨rfl, ?zeroPage, ?zeroPageX, ?zeroPageY, ?absolute, ?absoluteX, ?absoluteY, ?indirectX, ?indirectY, rfl⟩
  case zeroPage => exact congrArg Except.ok (zext16_eq_ofNat _)
  case zeroPageX => exact congrArg Except.ok (zext16_add8 _ _)
  case zeroPageY => exact congrArg Except.ok (zext16_add8 _ _)
  case absolute => exact congrArg Except.ok (by rw [BitVec.ofNat_toNat, BitVec.setWidth_eq]; rfl)
  case absoluteX => exact congrArg Except.ok (add16_zext16 _ _)
  case absoluteY => exact congrArg Except.ok (add16_zext16 _ _)
  case indirectX => exact congrArg Except.ok (addressIndirectX_eq _ s)
  case indirectY => exact congrArg Except.ok (addressIndirectY_eq _ s)

end Sys2Proof.Machine

/-!
PROOFS. The ALU and the flag generator (41_alu_and_flags.md): each sum as a number, `SetZN` by its outcome table, and that
the flags an instruction writes are those of the register it wrote.
-/

namespace Sys2Proof.Machine

/-! ### The flag generator -/

/-- Bit 7 of a byte, as its value (41_alu_and_flags.md R96). -/
theorem getLsbD_seven_eq_decide (v : Byte) : v.getLsbD 7 = decide (128 ≤ v.toNat) :=
  (BitVec.msb_eq_getLsbD_last v).symm.trans (BitVec.msb_eq_decide v)

/-- A status byte written by `SetZN(v)` has the Zero and the Negative of `v`, whatever it was before. -/
theorem FlagsOf.of_p_eq {t : State} {p v : Byte} (h : t.p = setZN p v) : FlagsOf t v := by
  have hflag (f : Flag) : t.flag f = flagOf (setZN p v) f := congrArg (flagOf · f) h
  refine ⟨?zero, ?negative⟩
  case zero => simp [hflag, flagOf_setZN, BitVec.toNat_eq]
  case negative =>
    rw [hflag, flagOf_setZN, if_neg (by decide), if_pos rfl, getLsbD_seven_eq_decide]

/-- A load of A leaves the flags of the byte loaded (42_load_lda.md R100). -/
theorem State.loadA_flagsOf (s : State) (v : Byte) : FlagsOf (s.loadA v) v := .of_p_eq (s.loadA_p v)

/-- A load of X leaves the flags of the byte loaded, not those of A (43_register_tax_inx.md R110, R111). -/
theorem State.loadX_flagsOf (s : State) (v : Byte) : FlagsOf (s.loadX v) v := .of_p_eq (s.loadX_p v)

/-- The Zero and the Negative of one byte are never both 1: 0 is below 128 (41_alu_and_flags.md R96). -/
theorem FlagsOf.not_zero_and_negative {t : State} {v : Byte} (h : FlagsOf t v) :
    ¬ (t.flag .zero = true ∧ t.flag .negative = true) := by
  obtain ⟨hzero, hnegative⟩ := h
  simp only [hzero, hnegative, decide_eq_true_eq]
  omega

/-- `SetZN` leaves the six other flags as they were (41_alu_and_flags.md R98). -/
theorem State.setZN_flag_of_quiet (s : State) (v : Byte) {f : Flag} (h : f.Quiet) :
    (s.setZN v).flag f = s.flag f := by
  obtain ⟨hzero, hnegative⟩ := h
  rw [State.setZN_flag, if_neg hzero, if_neg hnegative]

/-! ### The statements -/

/-- Settles O7: the two flags by the outcome table, and the frame of `SetZN`. -/
theorem flagGeneratorWritesTwoFlags : Obligations.FlagGeneratorWritesTwoFlags := by
  intro s v
  have hflags : FlagsOf (s.setZN v) v := .of_p_eq (State.setZN_p s v)
  exact ⟨hflags, fun _ => State.setZN_flag_of_quiet s v, hflags.not_zero_and_negative,
    State.setZN_a s v, State.setZN_x s v, State.setZN_y s v, State.setZN_pc s v, State.setZN_runState s v,
    State.setZN_faultLatch s v, State.setZN_wasReset s v, State.setZN_mem s v⟩

/-- Settles O30: LDA loaded A, TAX and INX loaded X, and each load sets the flags from the register it wrote. -/
theorem flagsFollowTheWrittenRegister : Obligations.FlagsFollowTheWrittenRegister := by
  intro i s t h
  obtain ⟨hlda, v, rfl⟩ | ⟨rfl, rfl⟩ | ⟨rfl, rfl⟩ | ⟨rfl, rfl⟩ := exec_next_cases h
  · exact ⟨fun _ => s.loadA_flagsOf v, by simp [hlda], by simp [hlda]⟩
  · exact ⟨nofun, fun _ => s.loadX_flagsOf s.a, nofun⟩
  · exact ⟨nofun, nofun, fun _ => s.loadX_flagsOf (inc8 s.x)⟩
  · exact ⟨nofun, nofun, nofun⟩

/-- Settles O6: PASS by definition, each sum by the wrap of its width. -/
theorem aluOperationsWrap : Obligations.AluOperationsWrap :=
  ⟨fun _ => rfl, fun v => BitVec.toNat_add v 1, BitVec.toNat_add, BitVec.toNat_add⟩

end Sys2Proof.Machine

/-!
PROOFS. LDA (42_load_lda.md): a mapped opcode's cycle as the default advance after `Execute(op)`, LDA's cycle in every mode
as one equation over the resolver's address, and what a load of A leaves unchanged.
-/

namespace Sys2Proof.Machine

/-! ### The cycle of a mapped opcode -/

/-- The second byte after the opcode is the byte after the first (30_encoding.md R51). -/
theorem add16_one_one (a : Addr) : add16 (add16 a 1) 1 = add16 a 2 := BitVec.add_assoc a 1 1

/-- The bytes at a mapped opcode decode by its Operation, on the operand bytes where PC is after fetch. -/
theorem decode_fetchBytes_eq_decodeOperand {s : State} {op : Operation} (h : decodeOpcode s.opcode = some op) :
    decode s.fetchBytes =
      decodeOperand op [Memory.read s.mem s.fetch.pc, Memory.read s.mem (add16 s.fetch.pc 1)] := by
  rw [State.opcode] at h
  simp only [State.fetchBytes, decode, h, State.fetch_pc, add16_one_one]

/-- At a mapped opcode the bytes at PC decode to an instruction of its Operation, whose execute step is the spec's
`Execute(op)`: the operand decoded is the one the resolver reads after fetch (45_instruction_cycle.md R124). -/
theorem decode_fetchBytes_of_mapped {s : State} {op : Operation} (h : decodeOpcode s.opcode = some op) :
    ∃ i rest, decode s.fetchBytes = .ok (i, rest) ∧ i.operation = op ∧
      exec i s.fetch = executeOperation op s.fetch := by
  rw [decode_fetchBytes_eq_decodeOperand h]
  obtain ⟨-, rfl⟩ | ⟨-, rfl⟩ | ⟨-, rfl⟩ | ⟨-, rfl⟩ | ⟨-, rfl⟩ | ⟨-, rfl⟩ | ⟨-, rfl⟩ | ⟨-, rfl⟩ | ⟨-, rfl⟩ |
    ⟨-, rfl⟩ | ⟨-, rfl⟩ := decodeOpcode_cases h
  all_goals exact ⟨_, _, rfl, rfl, rfl⟩

/-- The step at a mapped opcode: `Execute(op)` on the running core past the opcode byte, then the default advance
(45_instruction_cycle.md R120 to R125). -/
theorem step_of_mapped {s t : State} {op : Operation} (hs : s.Ready) (hop : decodeOpcode s.opcode = some op)
    (ht : executeOperation op (s.writeRunState .running).fetch = .next t) :
    step s = .next (defaultAdvance (add16 s.pc 1) (operandLength op.mode) t) := by
  obtain ⟨hlatch, hreset, hhalted⟩ := hs
  obtain ⟨i, rest, hdecode, rfl, hexec⟩ := decode_fetchBytes_of_mapped (s := s.writeRunState .running) hop
  rw [step_of_not_halted hlatch hreset hhalted]
  simp only [cycle, hdecode, hexec, ht, State.fetch_pc, State.writeRunState_pc]

/-! ### The cycle of LDA -/

/-- LDA is never tagged None (30_encoding.md R57), so its mode has an address. -/
theorem translateMode_of_decodeOpcode_lda {b : Byte} {mode : Mode} (h : decodeOpcode b = some ⟨.lda, mode⟩)
    (s : State) : ∃ ea, translateMode mode s = .ok ea := by
  cases mode with
  | none => exact absurd (decodeOpcode_cases h) (by simp)
  | immediate | zeroPage | zeroPageX | zeroPageY | absolute | absoluteX | absoluteY | indirectX | indirectY =>
    exact ⟨_, rfl⟩

/-- LDA's step in any mode: the byte at the resolver's address loaded into A, the core running, and PC past the operand
(42_load_lda.md R100). -/
theorem step_lda {s : State} {mode : Mode} {ea : Addr} (hs : s.Ready)
    (hop : decodeOpcode s.opcode = some ⟨.lda, mode⟩) (hea : translateMode mode s.fetch = .ok ea) :
    step s = .next (((s.loadA (Memory.read s.mem ea)).writeRunState .running).writePc
      (add16 (add16 s.pc 1) (BitVec.ofNat 16 (operandLength mode)))) := by
  have hea' : translateMode mode (s.writeRunState .running).fetch = .ok ea := hea
  have hexec : executeOperation ⟨.lda, mode⟩ (s.writeRunState .running).fetch =
      .next ((s.writeRunState .running).fetch.loadFrom ea) := by
    simp only [executeOperation, hea']
  have hpc : ((s.writeRunState .running).fetch.loadFrom ea).pc = add16 s.pc 1 := rfl
  rw [step_of_mapped hs hop hexec, defaultAdvance_of_eq _ hpc]
  rfl

/-! ### What a load of A leaves unchanged -/

theorem CommonFrame.writePc {s t : State} (h : CommonFrame s t) (pc : Addr) : CommonFrame s (t.writePc pc) :=
  ⟨h.y, h.quiet, h.faultLatch, h.wasReset, h.memory⟩

theorem CommonFrame.writeRunState {s t : State} (h : CommonFrame s t) (r : RunState) :
    CommonFrame s (t.writeRunState r) :=
  ⟨h.y, h.quiet, h.faultLatch, h.wasReset, h.memory⟩

theorem LoadedA.writePc {s t : State} {v : Byte} (h : LoadedA s t v) (pc : Addr) : LoadedA s (t.writePc pc) v :=
  ⟨h.a, h.flags, h.x, h.frame.writePc pc⟩

theorem LoadedA.writeRunState {s t : State} {v : Byte} (h : LoadedA s t v) (r : RunState) :
    LoadedA s (t.writeRunState r) v :=
  ⟨h.a, h.flags, h.x, h.frame.writeRunState r⟩

/-- A load of A writes A, Zero and Negative only (42_load_lda.md R100). -/
theorem State.loadA_loadedA (s : State) (v : Byte) : LoadedA s (s.loadA v) v where
  a := s.loadA_a v
  flags := s.loadA_flagsOf v
  x := s.loadA_x v
  frame := {
    y := s.loadA_y v
    quiet := fun _ => s.setZN_flag_of_quiet v
    faultLatch := s.loadA_faultLatch v
    wasReset := s.loadA_wasReset v
    memory := .of_mem_eq (s.loadA_mem v) }

/-- An execute step that loads A has the effects of a load and leaves PC and the run state. -/
theorem ExecLoadsA.of_exec {i : Instr} {s : State} {v : Byte} (h : exec i s = .next (s.loadA v)) :
    ExecLoadsA i s v :=
  ⟨_, h, s.loadA_loadedA v, s.loadA_pc v, s.loadA_runState v⟩

/-- LDA's full cycle loads the byte at the resolver's address and moves PC by the instruction's length
(42_load_lda.md R100). -/
theorem StepLoadsA.of_lda {s : State} {mode : Mode} {ea : Addr} (hs : s.Ready)
    (hop : decodeOpcode s.opcode = some ⟨.lda, mode⟩) (hea : translateMode mode s.fetch = .ok ea) :
    StepLoadsA s (Memory.read s.mem ea) (1 + operandLength mode) := by
  refine ⟨_, step_lda hs hop hea, ((s.loadA_loadedA _).writeRunState .running).writePc _, ?pc, rfl⟩
  case pc => simp [add16, Nat.add_assoc]

/-- The first operand byte as a cell counted from the opcode (40_addressing_modes.md R84). -/
theorem State.read_after_pc (s : State) : Memory.read s.mem (add16 s.pc 1) = s.cell (s.pc.toNat + 1) := by
  rw [State.cell, BitVec.ofNat_add, BitVec.ofNat_toNat, BitVec.setWidth_eq]
  rfl

/-! ### The statements -/

/-- Settles O29: the resolver answers an address in every mode LDA is tagged with, and the cycle loads from it; the latch
is in the frame of the load, so it is None as before. -/
theorem ldaLoadsFromTheResolvedAddress : Obligations.LdaLoadsFromTheResolvedAddress := by
  intro s mode hs hop
  obtain ⟨ea, hea⟩ := translateMode_of_decodeOpcode_lda hop s.fetch
  obtain ⟨t, hstep, hloaded, hpc, hrunning⟩ := StepLoadsA.of_lda hs hop hea
  exact ⟨ea, t, hea, hstep, hloaded, by rw [hpc, Nat.add_assoc], hrunning, hloaded.frame.faultLatch.trans hs.1⟩

/-- Settles O18: the immediate's address is that of the operand byte itself. -/
theorem ldaImmediateLoadsItsOperand : Obligations.LdaImmediateLoadsItsOperand := by
  refine ⟨fun d8 s => .of_exec rfl, fun s hs hop => ?_⟩
  have hmode : decodeOpcode s.opcode = some ⟨.lda, .immediate⟩ := by rw [hop]; rfl
  rw [← State.read_after_pc]
  exact .of_lda hs hmode rfl

end Sys2Proof.Machine

/-!
PROOFS. TAX and INX (43_register_tax_inx.md): what a load of X leaves unchanged, the cycle of an instruction that loads X
and has no operand, and the value INX loads as a number.
-/

namespace Sys2Proof.Machine

/-! ### What a load of X leaves unchanged -/

theorem LoadedX.writePc {s t : State} {v : Byte} (h : LoadedX s t v) (pc : Addr) : LoadedX s (t.writePc pc) v :=
  ⟨h.x, h.flags, h.a, h.frame.writePc pc⟩

theorem LoadedX.writeRunState {s t : State} {v : Byte} (h : LoadedX s t v) (r : RunState) :
    LoadedX s (t.writeRunState r) v :=
  ⟨h.x, h.flags, h.a, h.frame.writeRunState r⟩

/-- A load of X writes X, Zero and Negative only (43_register_tax_inx.md R110, R111). -/
theorem State.loadX_loadedX (s : State) (v : Byte) : LoadedX s (s.loadX v) v where
  x := s.loadX_x v
  flags := s.loadX_flagsOf v
  a := s.loadX_a v
  frame := {
    y := s.loadX_y v
    quiet := fun _ => s.setZN_flag_of_quiet v
    faultLatch := s.loadX_faultLatch v
    wasReset := s.loadX_wasReset v
    memory := .of_mem_eq (s.loadX_mem v) }

/-- An execute step that loads X has the effects of a load and leaves PC and the run state. -/
theorem exec_loadedX {i : Instr} {s : State} {v : Byte} (h : exec i s = .next (s.loadX v)) :
    ∃ t, exec i s = .next t ∧ LoadedX s t v ∧ t.pc = s.pc ∧ t.runState = s.runState :=
  ⟨_, h, s.loadX_loadedX v, s.loadX_pc v, s.loadX_runState v⟩

/-! ### The cycle of an instruction that loads X -/

/-- The step at an opcode without operand bytes whose `Execute(op)` loads X: the load, the core running, and PC past the
opcode byte, since the default advance adds 0 (45_instruction_cycle.md R125). -/
theorem step_loadX {s : State} {op : Operation} {v : Byte} (hs : s.Ready) (hop : decodeOpcode s.opcode = some op)
    (hmode : op.mode = .none)
    (hexec : executeOperation op (s.writeRunState .running).fetch =
      .next ((s.writeRunState .running).fetch.loadX v)) :
    step s = .next (((s.loadX v).writeRunState .running).writePc (add16 s.pc 1)) := by
  have hpc : ((s.writeRunState .running).fetch.loadX v).pc = add16 s.pc 1 := rfl
  have hadvance : add16 (add16 s.pc 1) (BitVec.ofNat 16 (operandLength .none)) = add16 s.pc 1 := BitVec.add_zero _
  rw [step_of_mapped hs hop hexec, hmode, defaultAdvance_of_eq _ hpc, hpc, hadvance]
  rfl

/-- The full cycle of such an instruction has the effects of a load of X and moves PC by 1. -/
theorem step_loadedX {s : State} {op : Operation} {v : Byte} (hs : s.Ready) (hop : decodeOpcode s.opcode = some op)
    (hmode : op.mode = .none)
    (hexec : executeOperation op (s.writeRunState .running).fetch =
      .next ((s.writeRunState .running).fetch.loadX v)) :
    ∃ t, step s = .next t ∧ LoadedX s t v ∧ t.pc.toNat = (s.pc.toNat + 1) % 65536 ∧ t.runState = .running :=
  ⟨_, step_loadX hs hop hmode hexec, ((s.loadX_loadedX v).writeRunState .running).writePc _,
    BitVec.toNat_add s.pc 1, rfl⟩

/-- INC8 as a number: the sum wraps at 8 bits (41_alu_and_flags.md R92). -/
theorem inc8_eq_ofNat (v : Byte) : inc8 v = BitVec.ofNat 8 ((v.toNat + 1) % 256) := by
  apply BitVec.eq_of_toNat_eq
  simp [inc8]

/-! ### The statements -/

/-- Settles O26: TAX loads X with A, which fetch has left as it was. -/
theorem taxCopiesTheAccumulator : Obligations.TaxCopiesTheAccumulator := by
  refine ⟨fun s => exec_loadedX rfl, fun s hs hop => ?_⟩
  have htax : decodeOpcode s.opcode = some ⟨.tax, .none⟩ := by rw [hop]; rfl
  exact step_loadedX hs htax rfl rfl

/-- Settles O27: INX loads X with INC8 of X, which fetch has left as it was. -/
theorem inxIncrementsX : Obligations.InxIncrementsX := by
  simp only [Obligations.InxIncrementsX, ← inc8_eq_ofNat]
  refine ⟨fun s => exec_loadedX rfl, fun s hs hop => ?_⟩
  have hinx : decodeOpcode s.opcode = some ⟨.inx, .none⟩ := by rw [hop]; rfl
  exact step_loadedX hs hinx rfl rfl

end Sys2Proof.Machine

/-!
PROOFS. The program counter in the instruction cycle (45_instruction_cycle.md R120 to R128): the default advance as a number,
that no execute step writes PC, and what a step at a mapped opcode did.
-/

namespace Sys2Proof.Machine

/-! ### The default advance -/

/-- PC plus a length, modulo 65536 (45_instruction_cycle.md R125, R128). -/
theorem add16_ofNat_toNat (a : Addr) (n : Nat) :
    (add16 a (BitVec.ofNat 16 n)).toNat = (a.toNat + n) % 65536 := by
  simp [add16]

/-- No instruction's execute step writes PC, so the default advance is never suppressed in a cycle. -/
theorem exec_pc {i : Instr} {s t : State} (h : exec i s = .next t) : t.pc = s.pc := by
  obtain ⟨-, v, rfl⟩ | ⟨-, rfl⟩ | ⟨-, rfl⟩ | ⟨-, rfl⟩ := exec_next_cases h
  · exact State.loadA_pc s v
  · exact State.loadX_pc s s.a
  · exact State.loadX_pc s (inc8 s.x)
  · exact State.writeRunState_pc s .halted

/-! ### What a step at a mapped opcode did -/

/-- A step at a mapped opcode is a completed cycle of that opcode's Operation: a ready core is not halted, and the byte
decodes, so there is neither a stutter nor a fault at dispatch (45_instruction_cycle.md R120 to R125). -/
theorem step_mapped_next {s t : State} {op : Operation} (hs : s.Ready) (hop : decodeOpcode s.opcode = some op)
    (h : step s = .next t) :
    ∃ i u, i.operation = op ∧ exec i (s.writeRunState .running).fetch = .next u ∧
      t = defaultAdvance (add16 s.pc 1) (operandLength op.mode) u := by
  obtain ⟨-, -, hrunning⟩ := hs
  obtain ⟨i, rest, hdecode, hi, -⟩ := decode_fetchBytes_of_mapped hop
  obtain ⟨-, -, ⟨hhalted, -⟩ | ⟨-, ⟨e, hfault⟩, -⟩ | ⟨-, j, _, u, hcycle, hexec, ht⟩⟩ := step_next_cases h
  · exact absurd hhalted hrunning
  · rw [hdecode] at hfault
    cases hfault
  · rw [hdecode] at hcycle
    cases hcycle
    exact ⟨i, u, hi, hexec, hi ▸ ht⟩

/-! ### The statements -/

/-- Settles O38: the two branches of the default advance, and in a cycle the first branch, since execute leaves PC at the
byte after the opcode. -/
theorem pcMovesToTheNextInstruction : Obligations.PcMovesToTheNextInstruction := by
  refine ⟨fun pcSeen length s => ⟨fun heq => ?advance, fun hne => defaultAdvance_of_ne length hne⟩,
    fun s t op hs hop hstep => ?cycle⟩
  case advance => exact ⟨_, add16_ofNat_toNat s.pc length, defaultAdvance_of_eq length heq⟩
  case cycle =>
    obtain ⟨i, u, -, hexec, rfl⟩ := step_mapped_next hs hop hstep
    have hpc : u.pc = add16 s.pc 1 := exec_pc hexec
    rw [defaultAdvance_of_eq _ hpc, State.writePc_pc, hpc, add16_ofNat_toNat, add16, BitVec.toNat_add]
    exact Nat.mod_add_mod _ _ _

end Sys2Proof.Machine

/-!
PROOFS. The decoder and the encoder (30_encoding.md): a mapped opcode byte has one Operation and an Operation one byte, the
operand bytes of a decoded instruction are those of its encoding, and from these the two directions of the round trip.
-/

namespace Sys2Proof

open Machine

/-! ### Decoding an encoded instruction -/

/-- Settles O1: a word operand is put together again from the two bytes of its encoding, and every other operand byte is
the operand itself. -/
theorem decodeOfEncode : Obligations.DecodeOfEncode := by
  intro i rest
  cases i with
  | brk | tax | inx | ldaIndirectX | ldaZeroPage | ldaImmediate | ldaIndirectY | ldaZeroPageX => rfl
  | ldaAbsolute a16 | ldaAbsoluteX a16 | ldaAbsoluteY a16 =>
    conv_rhs => rw [← wordOf_high_low a16]
    rfl

/-! ### Encoding a decoded instruction -/

/-- Operand bytes that decode are of an instruction of that Operation, and are its operand bytes (30_encoding.md R51,
R53). -/
theorem decodeOperand_ok {op : Operation} {bytes rest : List Byte} {i : Instr}
    (h : decodeOperand op bytes = .ok (i, rest)) : i.operation = op ∧ bytes = (encode i).tail ++ rest := by
  unfold decodeOperand at h
  split at h
  case h_12 => split at h <;> cases h
  all_goals
    cases h
    exact ⟨rfl, by simp [encode]⟩

/-- The Operation of a mapped byte determines the byte: no two rows of the decode table share one (30_encoding.md R55). -/
theorem eq_of_decodeOpcode_eq_some {b b' : Byte} {op : Operation} (h : decodeOpcode b = some op)
    (h' : decodeOpcode b' = some op) : b = b' := by
  have hrows : ∀ row ∈ opcodeTable, ∀ row' ∈ opcodeTable, row.operation = row'.operation →
      row.opcode = row'.opcode := by decide
  exact hrows _ (mem_opcodeTable_of_decodeOpcode h) _ (mem_opcodeTable_of_decodeOpcode h') rfl

/-- The opcode byte of an instruction decodes to its Operation (30_encoding.md R55). -/
theorem encode_eq_cons (i : Instr) : ∃ b, encode i = b :: (encode i).tail ∧ decodeOpcode b = some i.operation := by
  cases i <;> exact ⟨_, rfl, rfl⟩

/-- Bytes that decode to an instruction begin with a byte of its Operation, and its operand bytes and the rest follow
(30_encoding.md R50). -/
theorem decode_ok {bytes rest : List Byte} {i : Instr} (h : decode bytes = .ok (i, rest)) :
    ∃ b, decodeOpcode b = some i.operation ∧ bytes = b :: ((encode i).tail ++ rest) := by
  cases bytes with
  | nil => cases h
  | cons b operands =>
    rw [decode] at h
    cases hop : decodeOpcode b with
    | none => simp only [hop, reduceCtorEq] at h
    | some op =>
      simp only [hop] at h
      obtain ⟨rfl, rfl⟩ := decodeOperand_ok h
      exact ⟨b, hop, rfl⟩

/-- Settles O2: the first byte is the one byte of the instruction's Operation, and the operand bytes are its own. -/
theorem encodeOfDecode : Obligations.EncodeOfDecode := by
  intro bytes i rest h
  obtain ⟨b, hb, rfl⟩ := decode_ok h
  obtain ⟨b', hcons, hb'⟩ := encode_eq_cons i
  rw [hcons, eq_of_decodeOpcode_eq_some hb hb', List.cons_append, List.tail_cons]

/-! ### The decode table -/

/-- Settles O3: the table looked up at each of its bytes, and each mode's length. -/
theorem decodeTableRows : Obligations.DecodeTableRows := by
  unfold Obligations.DecodeTableRows
  decide

/-- Settles O4: the decoder run on each word. -/
theorem specWordsDecode : Obligations.SpecWordsDecode :=
  ⟨rfl, rfl, rfl, rfl, rfl, rfl, rfl⟩

/-- Every well-formed Operation is that of some instruction (30_encoding.md R55, R57). -/
theorem Operation.exists_instr_of_wellFormed {op : Operation} (h : op.wellFormed = true) :
    ∃ i : Instr, i.operation = op := by
  obtain ⟨mnemonic, mode⟩ := op
  cases mnemonic with
  | brk => exact ⟨.brk, by rw [eq_of_beq h]; rfl⟩
  | tax => exact ⟨.tax, by rw [eq_of_beq h]; rfl⟩
  | inx => exact ⟨.inx, by rw [eq_of_beq h]; rfl⟩
  | lda =>
    cases mode with
    | none | zeroPageY => cases h
    | immediate => exact ⟨.ldaImmediate 0, rfl⟩
    | zeroPage => exact ⟨.ldaZeroPage 0, rfl⟩
    | zeroPageX => exact ⟨.ldaZeroPageX 0, rfl⟩
    | absolute => exact ⟨.ldaAbsolute 0, rfl⟩
    | absoluteX => exact ⟨.ldaAbsoluteX 0, rfl⟩
    | absoluteY => exact ⟨.ldaAbsoluteY 0, rfl⟩
    | indirectX => exact ⟨.ldaIndirectX 0, rfl⟩
    | indirectY => exact ⟨.ldaIndirectY 0, rfl⟩

/-- Settles O5: a well-formed Operation is an instruction's, whose opcode byte decodes to it; and each of the eleven rows is
well-formed. -/
theorem decodedOperationsAreTheWellFormed : Obligations.DecodedOperationsAreTheWellFormed := by
  refine fun op => ⟨fun h => ?mapped, fun ⟨b, hb⟩ => ?wellFormed⟩
  case mapped =>
    obtain ⟨i, rfl⟩ := Operation.exists_instr_of_wellFormed h
    obtain ⟨b, -, hb⟩ := encode_eq_cons i
    exact ⟨b, hb⟩
  case wellFormed =>
    have hrows : ∀ row ∈ opcodeTable, row.operation.wellFormed = true := by decide
    exact hrows _ (mem_opcodeTable_of_decodeOpcode hb)

end Sys2Proof

/-!
PROOFS. The invariant of the machine (10_state.md sections 2 and 3): each operation over the state keeps it, so each execute
step, each step and each operation of the host does.
-/

namespace Sys2Proof.Machine

/-! ### The operations over the state -/

/-- The invariant speaks of memory, Y, P and `wasReset` only. -/
theorem State.Inv.of_eq {s t : State} (h : s.Inv) (hmem : Memory.wf t.mem = true) (hy : t.y = s.y) (hp : t.p = s.p)
    (hreset : t.wasReset = s.wasReset) : t.Inv := by
  obtain ⟨-, y, quiet, zeroOrNegative⟩ := h
  have hflag (f : Flag) : t.flag f = s.flag f := congrArg (flagOf · f) hp
  exact ⟨hmem, by rwa [hreset, hy], by simpa only [hreset, hflag] using quiet,
    by simpa only [hreset, hflag] using zeroOrNegative⟩

theorem State.Inv.writeA {s : State} (h : s.Inv) (v : Byte) : (s.writeA v).Inv := h.of_eq h.memory rfl rfl rfl

theorem State.Inv.writeX {s : State} (h : s.Inv) (v : Byte) : (s.writeX v).Inv := h.of_eq h.memory rfl rfl rfl

theorem State.Inv.writePc {s : State} (h : s.Inv) (v : Addr) : (s.writePc v).Inv := h.of_eq h.memory rfl rfl rfl

theorem State.Inv.writeRunState {s : State} (h : s.Inv) (r : RunState) : (s.writeRunState r).Inv :=
  h.of_eq h.memory rfl rfl rfl

theorem State.Inv.raise {s : State} (h : s.Inv) (f : Fault) : (s.raise f).Inv := h.of_eq h.memory rfl rfl rfl

theorem State.Inv.writeMem {s : State} (h : s.Inv) {m : Memory} (hm : Memory.wf m = true) : (s.writeMem m).Inv :=
  h.of_eq hm rfl rfl rfl

/-- `SetZN` leaves the quiet flags and never sets both Zero and Negative (41_alu_and_flags.md R96). -/
theorem State.Inv.setZN {s : State} (h : s.Inv) (v : Byte) : (s.setZN v).Inv where
  memory := h.memory
  y := h.y
  quiet := fun hreset f hf => (s.setZN_flag_of_quiet v hf).trans (h.quiet hreset f hf)
  zeroOrNegative := fun _ => (FlagsOf.of_p_eq (s.setZN_p v)).not_zero_and_negative

theorem State.Inv.loadA {s : State} (h : s.Inv) (v : Byte) : (s.loadA v).Inv := (h.writeA v).setZN v

theorem State.Inv.loadX {s : State} (h : s.Inv) (v : Byte) : (s.loadX v).Inv := (h.writeX v).setZN v

/-- Reset gives the invariant's registers whatever they held; memory has to be canonical before
(70_reset_and_hazards.md R160). -/
theorem State.applyReset_inv {s : State} (h : Memory.wf s.mem = true) : s.applyReset.Inv where
  memory := h
  y := fun _ => rfl
  quiet := fun _ f _ => flagOf_zero f
  zeroOrNegative := fun _ hboth => Bool.false_ne_true ((flagOf_zero .zero).symm.trans hboth.1)

/-! ### Steps and runs -/

theorem exec_inv {i : Instr} {s t : State} (h : s.Inv) (hexec : exec i s = .next t) : t.Inv := by
  obtain ⟨-, v, rfl⟩ | ⟨-, rfl⟩ | ⟨-, rfl⟩ | ⟨-, rfl⟩ := exec_next_cases hexec
  · exact h.loadA v
  · exact h.loadX s.a
  · exact h.loadX (inc8 s.x)
  · exact h.writeRunState .halted

theorem State.Inv.defaultAdvance {s : State} (h : s.Inv) (pcSeen : Addr) (length : Nat) :
    (defaultAdvance pcSeen length s).Inv := by
  by_cases hpc : s.pc = pcSeen
  · rw [defaultAdvance_of_eq length hpc]
    exact h.writePc _
  · rwa [defaultAdvance_of_ne length hpc]

theorem step_inv {s t : State} (h : s.Inv) (hstep : step s = .next t) : t.Inv := by
  have hfetched : (s.writeRunState .running).fetch.Inv := (h.writeRunState .running).writePc _
  obtain ⟨-, -, ⟨-, rfl⟩ | ⟨-, -, rfl⟩ | ⟨-, i, rest, u, -, hexec, rfl⟩⟩ := step_next_cases hstep
  · exact h
  · exact hfetched.raise _
  · exact (exec_inv hfetched hexec).defaultAdvance _ _

/-- A run with no fuel left answers the state as it is, and one with fuel is a step and the run after it. -/
theorem hostRun_inv {fuel : Nat} : ∀ {s t : State}, s.Inv → hostRun fuel s = .next t → t.Inv := by
  induction fuel with
  | zero =>
    intro s t h hrun
    cases hrun
    exact h
  | succ fuel ih =>
    intro s t h hrun
    rw [hostRun_succ] at hrun
    cases hstep : step s with
    | fault f => simp only [hstep, reduceCtorEq] at hrun
    | refused r => simp only [hstep, reduceCtorEq] at hrun
    | next u =>
      have hu : u.Inv := step_inv h hstep
      simp only [hstep] at hrun
      split at hrun
      · cases hrun
        exact hu
      · exact ih hu hrun

/-! ### The host's operations -/

/-- A load in range writes canonical memory; out of range it raises a fault only (20_memory.md R35). -/
theorem State.Inv.busLoad {s : State} (h : s.Inv) (offset : Addr) (bytes : List Byte) : (s.busLoad offset bytes).Inv := by
  rcases Nat.lt_or_ge 65536 (offset.toNat + bytes.length) with hgt | hle
  · rw [State.busLoad_of_gt hgt]
    exact h.raise _
  · rw [State.busLoad_of_le hle]
    exact h.writeMem (Memory.copy_wf bytes offset h.memory)

/-- The engine-level load asks for the range once and then writes memory twice (70_reset_and_hazards.md R164). -/
theorem State.Inv.engineLoad {s : State} (h : s.Inv) (hl : s.faultLatch = none) (origin : Addr) (bytes : List Byte) :
    (s.engineLoad origin bytes).Inv := by
  rcases Nat.lt_or_ge 65536 (origin.toNat + bytes.length) with hgt | hle
  · rw [State.engineLoad_of_gt hgt]
    exact h.raise _
  · rw [State.engineLoad_of_le hl hle]
    exact h.writeMem (Memory.writeWord_wf _ _ (Memory.copy_wf bytes origin h.memory))

/-- An accepted operation answers the state it makes, so it keeps the invariant if that state has it. -/
theorem State.Inv.of_accept {s t u : State} (ht : t.Inv) (h : s.accept t = .next u) : u.Inv := by
  obtain ⟨-, rfl⟩ := State.accept_next h
  exact ht

theorem hostLoadAt_inv {origin : Addr} {bytes : List Byte} {s t : State} (h : s.Inv)
    (hload : hostLoadAt origin bytes s = .next t) : t.Inv := by
  obtain ⟨hl, rfl⟩ := State.accept_next hload
  exact h.engineLoad hl origin bytes

theorem hostAct_inv {op : HostOp} {s t : State} (h : s.Inv) (hact : hostAct op s = .next t) : t.Inv := by
  cases op with
  | reset => exact (State.applyReset_inv h.memory).of_accept hact
  | load origin bytes => exact hostLoadAt_inv h hact
  | busLoad offset bytes => exact (h.busLoad offset bytes).of_accept hact
  | write a v => exact (h.writeMem (Memory.write_wf a v h.memory)).of_accept hact
  | writeWord a v => exact (h.writeMem (Memory.writeWord_wf a v h.memory)).of_accept hact
  | singleStep => exact step_inv h hact
  | run fuel => exact hostRun_inv h hact
  | loadAndRun origin bytes fuel =>
    obtain ⟨-, -, u, v, hload, hreset, hrun⟩ := hostLoadAndRunAt_next hact
    have hu : u.Inv := hostLoadAt_inv h hload
    exact hostRun_inv ((State.applyReset_inv hu.memory).of_accept hreset) hrun

/-! ### The statements -/

/-- Settles O53: a halted core's stutter, a fault at dispatch and a completed cycle each keep the invariant. -/
theorem invariantKeptByEveryStep : Obligations.InvariantKeptByEveryStep :=
  fun _ _ => step_inv

/-- Settles O54: each operation of the host keeps it; at power-on no reset has been performed, so it asks for canonical
memory only. -/
theorem invariantKeptByTheHost : Obligations.InvariantKeptByTheHost :=
  ⟨fun _ _ _ => hostAct_inv, fun _ _ _ _ _ _ hm => ⟨hm, nofun, nofun, nofun⟩⟩

/-- Settles O52: the state after reset is what reset makes of memory with nothing listed. -/
theorem invariantHoldsAtReset : Obligations.InvariantHoldsAtReset :=
  State.applyReset_inv (s := State.reset) Memory.wf_nil

end Sys2Proof.Machine

/-!
PROOFS. Words and loads in memory (20_memory.md): a word after a word write, the cells after the copy of a load, and that
memory in canonical form is what its cells read.
-/

namespace Sys2Proof.Machine

/-! ### Addresses as numbers -/

/-- An address given as its own number. -/
theorem ofNat_toNat_self (a : Addr) : BitVec.ofNat 16 a.toNat = a := by
  rw [BitVec.ofNat_toNat, BitVec.setWidth_eq]

theorem add16_one_toNat (a : Addr) : (add16 a 1).toNat = (a.toNat + 1) % 65536 := BitVec.toNat_add a 1

/-- The two cells of a word are two cells, at 0xFFFF too. -/
theorem ne_add16_one (a : Addr) : a ≠ add16 a 1 := by
  intro h
  have htoNat := congrArg BitVec.toNat h
  rw [add16_one_toNat] at htoNat
  omega

/-! ### A word write -/

/-- The first cell of a word takes the low byte (20_memory.md R34). -/
theorem Memory.read_writeWord_low (m : Memory) (a v : Addr) :
    Memory.read (Memory.writeWord m a v) a = lowByte v := by
  rw [Memory.writeWord, Memory.read_write_of_ne _ _ (ne_add16_one a), Memory.read_write_self]

/-- The second cell of a word takes the high byte (20_memory.md R34). -/
theorem Memory.read_writeWord_high (m : Memory) (a v : Addr) :
    Memory.read (Memory.writeWord m a v) (add16 a 1) = highByte v :=
  Memory.read_write_self _ _ _

/-- Every other cell reads as before (20_memory.md R34). -/
theorem Memory.read_writeWord_of_ne (m : Memory) {a b : Addr} (v : Addr) (hlow : b ≠ a) (hhigh : b ≠ add16 a 1) :
    Memory.read (Memory.writeWord m a v) b = Memory.read m b := by
  rw [Memory.writeWord, Memory.read_write_of_ne _ _ hhigh, Memory.read_write_of_ne _ _ hlow]

/-- The word written reads back. -/
@[simp] theorem Memory.readWord_writeWord_self (m : Memory) (a v : Addr) :
    Memory.readWord (Memory.writeWord m a v) a = v := by
  rw [Memory.readWord, Memory.read_writeWord_high, Memory.read_writeWord_low, wordOf_high_low]

/-! ### The copy of a load -/

/-- A cell outside the copied range reads as before. At the top of memory the next address wraps to 0, but no byte is
left to copy there. -/
theorem Memory.read_copy_of_outside (b : Addr) : ∀ (bytes : List Byte) (m : Memory) (a : Addr),
    a.toNat + bytes.length ≤ 65536 → (b.toNat < a.toNat ∨ a.toNat + bytes.length ≤ b.toNat) →
      Memory.read (Memory.copy m a bytes) b = Memory.read m b
  | [], _, _, _, _ => rfl
  | v :: rest, m, a, hrange, houtside => by
    rw [List.length_cons] at hrange houtside
    have hnext := add16_one_toNat a
    have hne : b ≠ a := by
      rintro rfl
      omega
    rw [Memory.copy, Memory.read_copy_of_outside b rest _ _ (by omega) (by omega), Memory.read_write_of_ne m v hne]

/-- The cell `n` after the first holds the byte `n` of the load: the later bytes are written elsewhere. -/
theorem Memory.read_copy_getElem : ∀ (bytes : List Byte) (m : Memory) (a : Addr) (n : Nat) (h : n < bytes.length),
    a.toNat + bytes.length ≤ 65536 →
      Memory.read (Memory.copy m a bytes) (BitVec.ofNat 16 (a.toNat + n)) = bytes[n]
  | v :: rest, m, a, 0, _, hrange => by
    rw [List.length_cons] at hrange
    have hnext := add16_one_toNat a
    rw [Nat.add_zero, ofNat_toNat_self, Memory.copy,
      Memory.read_copy_of_outside a rest _ _ (by omega) (by omega), Memory.read_write_self]
    rfl
  | v :: rest, m, a, n + 1, h, hrange => by
    rw [List.length_cons] at h hrange
    have hnext : (add16 a 1).toNat + n = a.toNat + (n + 1) := by
      rw [add16_one_toNat]
      omega
    rw [← hnext]
    exact Memory.read_copy_getElem rest _ _ n (by omega) (by omega)

/-! ### Canonical memory and its cells -/

/-- What a canonical list names is in its range and in the address space, and differs from the unlisted byte. -/
theorem Memory.bounds_of_lookup_eq_some {n : Nat} {b : Byte} : ∀ {m : Memory} {low : Nat},
    Memory.wfFrom low m = true → Memory.lookup m n = some b → low ≤ n ∧ n < 65536 ∧ b ≠ unlistedByte
  | (k, v) :: rest, low, hm, hsome => by
    obtain ⟨hlow, hk, hv, hrest⟩ := (Memory.wfFrom_cons low k v rest).mp hm
    rw [Memory.lookup] at hsome
    split at hsome
    · cases hsome
      exact ⟨by omega, by omega, hv⟩
    · obtain ⟨hn, hbounds⟩ := Memory.bounds_of_lookup_eq_some hrest hsome
      exact ⟨by omega, hbounds⟩

/-- A canonical list names no address below its range. -/
theorem Memory.lookup_eq_none_of_lt {m : Memory} {low n : Nat} (hm : Memory.wfFrom low m = true) (h : n < low) :
    Memory.lookup m n = none :=
  Option.eq_none_iff_forall_ne_some.mpr fun _ hsome =>
    Nat.not_le.mpr h (Memory.bounds_of_lookup_eq_some hm hsome).1

/-- What a canonical list names at an address is what the address reads, if that is not the unlisted byte. -/
theorem Memory.lookup_eq_of_read {m : Memory} (hm : Memory.wf m = true) (a : Addr) :
    Memory.lookup m a.toNat = if Memory.read m a = unlistedByte then none else some (Memory.read m a) := by
  unfold Memory.read
  cases hlookup : Memory.lookup m a.toNat with
  | none => simp
  | some b =>
    obtain ⟨-, -, hb⟩ := Memory.bounds_of_lookup_eq_some hm hlookup
    simp [hb]

/-- Canonical lists that read alike name the same cells; past the address space they name none. -/
theorem Memory.lookup_eq_of_read_eq {m m' : Memory} (hm : Memory.wf m = true) (hm' : Memory.wf m' = true)
    (h : ∀ a : Addr, Memory.read m a = Memory.read m' a) (n : Nat) : Memory.lookup m n = Memory.lookup m' n := by
  have hnone {m : Memory} (hm : Memory.wf m = true) (hn : ¬ n < 65536) : Memory.lookup m n = none :=
    Option.eq_none_iff_forall_ne_some.mpr fun _ hsome => hn (Memory.bounds_of_lookup_eq_some hm hsome).2.1
  by_cases hn : n < 65536
  · have hread := Memory.lookup_eq_of_read hm (BitVec.ofNat 16 n)
    rw [h, ← Memory.lookup_eq_of_read hm', BitVec.toNat_ofNat, Nat.mod_eq_of_lt hn] at hread
    exact hread
  · rw [hnone hm hn, hnone hm' hn]

/-- The first address a canonical list names is the least. -/
theorem Memory.head_le_of_lookup_eq_some {low k n : Nat} {v b : Byte} {rest : Memory}
    (hm : Memory.wfFrom low ((k, v) :: rest) = true) (h : Memory.lookup ((k, v) :: rest) n = some b) : k ≤ n := by
  obtain ⟨-, hbounds⟩ := (Memory.wfFrom_cons low k v rest).mp hm
  have hfromHead := (Memory.wfFrom_cons k k v rest).mpr ⟨le_rfl, hbounds⟩
  exact (Memory.bounds_of_lookup_eq_some hfromHead h).1

/-- Canonical lists that name the same cells are the same: the first of each is the least, and the others follow it. -/
theorem Memory.eq_of_lookup_eq : ∀ {m m' : Memory} {low : Nat},
    Memory.wfFrom low m = true → Memory.wfFrom low m' = true →
      (∀ n, Memory.lookup m n = Memory.lookup m' n) → m = m'
  | [], [], _, _, _, _ => rfl
  | [], (k, v) :: _, _, _, _, h => by simpa [Memory.lookup] using h k
  | (k, v) :: _, [], _, _, _, h => by simpa [Memory.lookup] using h k
  | (k, v) :: rest, (k', v') :: rest', low, hm, hm', h => by
    have hhead : Memory.lookup ((k', v') :: rest') k = some v := (h k).symm.trans (if_pos rfl)
    have hhead' : Memory.lookup ((k, v) :: rest) k' = some v' := (h k').trans (if_pos rfl)
    obtain rfl : k = k' := Nat.le_antisymm (Memory.head_le_of_lookup_eq_some hm hhead')
      (Memory.head_le_of_lookup_eq_some hm' hhead)
    obtain rfl : v' = v := by simpa [Memory.lookup] using hhead
    obtain ⟨-, -, -, hrest⟩ := (Memory.wfFrom_cons low k v' rest).mp hm
    obtain ⟨-, -, -, hrest'⟩ := (Memory.wfFrom_cons low k v' rest').mp hm'
    have htail (n : Nat) : Memory.lookup rest n = Memory.lookup rest' n := by
      by_cases hn : k = n
      · rw [Memory.lookup_eq_none_of_lt hrest (by omega), Memory.lookup_eq_none_of_lt hrest' (by omega)]
      · simpa [Memory.lookup, hn] using h n
    rw [Memory.eq_of_lookup_eq hrest hrest' htail]

/-- The first `n` cells of any contents are those of some canonical memory, one write after another. -/
theorem Memory.exists_wf_read_eq (contents : Addr → Byte) (n : Nat) :
    ∃ m : Memory, Memory.wf m = true ∧ ∀ a : Addr, a.toNat < n → Memory.read m a = contents a := by
  induction n with
  | zero => exact ⟨[], Memory.wf_nil, fun _ h => absurd h (Nat.not_lt_zero _)⟩
  | succ n ih =>
    obtain ⟨m, hm, hread⟩ := ih
    let last := BitVec.ofNat 16 n
    refine ⟨Memory.write m last (contents last), Memory.write_wf last (contents last) hm, fun a ha => ?_⟩
    rw [Memory.read_write]
    split
    case isTrue heq => rw [heq]
    case isFalse hne =>
      have han : a.toNat ≠ n := fun e => hne (by rw [← ofNat_toNat_self a, e])
      exact hread a (by omega)

/-! ### The statements -/

/-- Settles O10: the two cells of the word, the cells that are neither, and the word read back. -/
theorem wordWriteIsLittleEndian : Obligations.WordWriteIsLittleEndian := by
  intro m a v
  rw [← add16_one_toNat, ofNat_toNat_self, Memory.read_writeWord_low, Memory.read_writeWord_high]
  refine ⟨lowByte_toNat v, highByte_toNat v, fun b hlow hhigh => ?_, Memory.readWord_writeWord_self m a v⟩
  exact Memory.read_writeWord_of_ne m v hlow (fun h => hhigh (congrArg BitVec.toNat h))

/-- Settles O11: in range the load is the copy, whose cells are known inside and outside the range. -/
theorem busLoadCopiesInRange : Obligations.BusLoadCopiesInRange := by
  intro s offset bytes hrange
  rw [State.busLoad_of_le hrange]
  exact ⟨fun n h => Memory.read_copy_getElem bytes s.mem offset n h hrange,
    fun b houtside => Memory.read_copy_of_outside b bytes s.mem offset hrange houtside, rfl⟩

/-- Settles O13: memories that read alike name the same cells, and canonical lists of the same cells are the same. -/
theorem equalReadsAreEqualMemories : Obligations.EqualReadsAreEqualMemories :=
  fun _ _ hm hm' h => Memory.eq_of_lookup_eq hm hm' (Memory.lookup_eq_of_read_eq hm hm' h)

/-- Settles O14: every address is among the first 65536 cells. -/
theorem everyContentsIsAMemory : Obligations.EveryContentsIsAMemory := by
  intro contents
  obtain ⟨m, hm, hread⟩ := Memory.exists_wf_read_eq contents 65536
  exact ⟨m, hm, fun a => hread a a.isLt⟩

end Sys2Proof.Machine

/-!
PROOFS. LDA in each addressed mode (42_load_lda.md sections 2 and 3): the execute step loads from the mode's address on the
decoded operand, the full cycle from the same address on the operand bytes after the opcode, and neither looks at A, P, PC
or the run state.
-/

namespace Sys2Proof.Machine

/-! ### The operand bytes after the opcode -/

/-- The operand byte the resolver reads after fetch (40_addressing_modes.md R84). -/
theorem State.fetch_operandByte (s : State) : s.fetch.operandByte = s.cell (s.pc.toNat + 1) := s.read_after_pc

/-- The operand word the resolver reads after fetch (40_addressing_modes.md R75). -/
theorem State.fetch_operandWord_toNat (s : State) :
    s.fetch.operandWord.toNat = (s.cell (s.pc.toNat + 2)).toNat * 256 + (s.cell (s.pc.toNat + 1)).toNat := by
  have hhigh : Memory.read s.mem (add16 (add16 s.pc 1) 1) = s.cell (s.pc.toNat + 2) := by
    rw [add16_one_one, State.cell, BitVec.ofNat_add, ofNat_toNat_self]
    rfl
  rw [← hhigh, ← State.fetch_operandByte, State.operandWord, Memory.readWord, wordOf_toNat]
  rfl

/-! ### From an address given as a number -/

/-- An LDA whose address is the number `n` loads the cell at `n`. -/
theorem ExecLoadsA.of_address {i : Instr} {s : State} {ea : Addr} {n : Nat} (h : exec i s = .next (s.loadFrom ea))
    (hea : ea = BitVec.ofNat 16 n) : ExecLoadsA i s (s.cell n) := by
  subst hea
  exact .of_exec h

/-- The cycle of an LDA opcode whose mode resolves to the number `n` after fetch loads the cell at `n`. -/
theorem StepLoadsA.of_address {s : State} {opcode : Byte} {mode : Mode} {ea : Addr} {n : Nat} (hs : s.Ready)
    (hop : s.opcode = opcode) (hmode : decodeOpcode opcode = some ⟨.lda, mode⟩)
    (htranslate : translateMode mode s.fetch = .ok ea) (hea : ea = BitVec.ofNat 16 n) :
    StepLoadsA s (s.cell n) (1 + operandLength mode) := by
  subst hea
  subst hop
  exact .of_lda hs hmode htranslate

/-! ### The statements, mode by mode -/

/-- Settles O19: the operand byte is the address. -/
theorem ldaZeroPageLoads : Obligations.LdaZeroPageLoads := by
  refine ⟨fun d8 s => .of_address rfl (zext16_eq_ofNat d8), fun s hs hop => ?_⟩
  rw [← State.fetch_operandByte]
  exact .of_address hs hop rfl rfl (zext16_eq_ofNat _)

/-- Settles O20: the sum with X wraps inside page zero. -/
theorem ldaZeroPageXLoads : Obligations.LdaZeroPageXLoads := by
  refine ⟨fun d8 s => .of_address rfl (zext16_add8 d8 s.x), fun s hs hop => ?_⟩
  rw [← State.fetch_operandByte]
  exact .of_address hs hop rfl rfl (zext16_add8 _ s.x)

/-- Settles O21: the operand word is the address. -/
theorem ldaAbsoluteLoads : Obligations.LdaAbsoluteLoads := by
  refine ⟨fun a16 s => .of_address rfl (ofNat_toNat_self a16).symm, fun s hs hop => ?_⟩
  rw [← State.fetch_operandWord_toNat]
  exact .of_address hs hop rfl rfl (ofNat_toNat_self _).symm

/-- Settles O22: the sum with X wraps at 16 bits. -/
theorem ldaAbsoluteXLoads : Obligations.LdaAbsoluteXLoads := by
  refine ⟨fun a16 s => .of_address rfl (add16_zext16 a16 s.x), fun s hs hop => ?_⟩
  rw [← State.fetch_operandWord_toNat]
  exact .of_address hs hop rfl rfl (add16_zext16 _ s.x)

/-- Settles O23: the sum with Y wraps at 16 bits. -/
theorem ldaAbsoluteYLoads : Obligations.LdaAbsoluteYLoads := by
  refine ⟨fun a16 s => .of_address rfl (add16_zext16 a16 s.y), fun s hs hop => ?_⟩
  rw [← State.fetch_operandWord_toNat]
  exact .of_address hs hop rfl rfl (add16_zext16 _ s.y)

/-- Settles O24: the pointer stands at the sum with X, inside page zero. -/
theorem ldaIndirectXLoads : Obligations.LdaIndirectXLoads := by
  refine ⟨fun d8 s => .of_address rfl (addressIndirectX_eq d8 s), fun s hs hop => ?_⟩
  rw [← State.fetch_operandByte]
  exact .of_address hs hop rfl rfl (addressIndirectX_eq _ s)

/-- Settles O25: Y is added to the pointer's value. -/
theorem ldaIndirectYLoads : Obligations.LdaIndirectYLoads := by
  refine ⟨fun d8 s => .of_address rfl (addressIndirectY_eq d8 s), fun s hs hop => ?_⟩
  rw [← State.fetch_operandByte]
  exact .of_address hs hop rfl rfl (addressIndirectY_eq _ s)

/-! ### What a load looks at -/

/-- LDA's byte comes from X, Y and the bytes of memory only (42_load_lda.md section 3). -/
theorem exec_lda_congr {i : Instr} {s s' : State} (hlda : i.operation.mnemonic = .lda) (hx : s.x = s'.x)
    (hy : s.y = s'.y) (hmem : SameMemory s s') :
    ∃ v, exec i s = .next (s.loadA v) ∧ exec i s' = .next (s'.loadA v) := by
  have hread : Memory.read s'.mem = Memory.read s.mem := funext hmem
  have hload (ea : Addr) : s'.loadFrom ea = s'.loadA (Memory.read s.mem ea) := by rw [State.loadFrom, hread]
  have hpointer (p : Byte) : zpPtrRead s'.mem p = zpPtrRead s.mem p := by rw [zpPtrRead, hread, zpPtrRead]
  cases i with
  | brk | tax | inx => cases hlda
  | ldaImmediate d8 => exact ⟨d8, rfl, rfl⟩
  | ldaZeroPage d8 => exact ⟨_, rfl, congrArg _ (hload _)⟩
  | ldaAbsolute a16 => exact ⟨_, rfl, congrArg _ (hload _)⟩
  | ldaZeroPageX d8 => exact ⟨_, rfl, by rw [exec, execLdaZeroPageX, hload, addressZeroPageX, ← hx]; rfl⟩
  | ldaAbsoluteX a16 => exact ⟨_, rfl, by rw [exec, execLdaAbsoluteX, hload, addressAbsoluteX, ← hx]; rfl⟩
  | ldaAbsoluteY a16 => exact ⟨_, rfl, by rw [exec, execLdaAbsoluteY, hload, addressAbsoluteY, ← hy]; rfl⟩
  | ldaIndirectX d8 => exact ⟨_, rfl, by rw [exec, execLdaIndirectX, hload, addressIndirectX, hpointer, ← hx]; rfl⟩
  | ldaIndirectY d8 => exact ⟨_, rfl, by rw [exec, execLdaIndirectY, hload, addressIndirectY, hpointer, ← hy]; rfl⟩

/-- Settles O32: both states load the same byte, and A and the two flags are that byte's. -/
theorem ldaIgnoresOldAccumulatorAndFlags : Obligations.LdaIgnoresOldAccumulatorAndFlags := by
  intro i s s' t t' hlda hx hy hmem h h'
  obtain ⟨v, hv, hv'⟩ := exec_lda_congr hlda hx hy hmem
  cases hv.symm.trans h
  cases hv'.symm.trans h'
  obtain ⟨hzero, hnegative⟩ := s.loadA_flagsOf v
  obtain ⟨hzero', hnegative'⟩ := s'.loadA_flagsOf v
  exact ⟨rfl, hzero.trans hzero'.symm, hnegative.trans hnegative'.symm⟩

end Sys2Proof.Machine

/-!
PROOFS. The instruction cycle (45_instruction_cycle.md): what an execute step leaves unchanged, the cycle of BRK, the cycle
that ends at dispatch on an unmapped byte, and what every step from a ready state does to the run state and the latch.
-/

namespace Sys2Proof.Machine

/-! ### The execute step -/

theorem CommonFrame.refl (s : State) : CommonFrame s s := ⟨rfl, fun _ _ => rfl, rfl, rfl, fun _ => rfl⟩

/-- Every instruction has a meaning, and no meaning ends in a fault or a refusal. -/
theorem exec_answers (i : Instr) (s : State) : ∃ t, exec i s = .next t := by
  cases i <;> exact ⟨_, rfl⟩

/-- What every instruction leaves unchanged (10_state.md R27). -/
theorem exec_frame {i : Instr} {s t : State} (h : exec i s = .next t) : CommonFrame s t := by
  obtain ⟨-, v, rfl⟩ | ⟨-, rfl⟩ | ⟨-, rfl⟩ | ⟨-, rfl⟩ := exec_next_cases h
  · exact (s.loadA_loadedA v).frame
  · exact (s.loadX_loadedX s.a).frame
  · exact (s.loadX_loadedX (inc8 s.x)).frame
  · exact (CommonFrame.refl s).writeRunState .halted

/-- Only BRK writes the run state (44_system_brk.md R115). -/
theorem exec_runState {i : Instr} {s t : State} (h : exec i s = .next t) :
    t.runState = if i.operation.mnemonic = .brk then .halted else s.runState := by
  obtain ⟨hlda, v, rfl⟩ | ⟨rfl, rfl⟩ | ⟨rfl, rfl⟩ | ⟨rfl, rfl⟩ := exec_next_cases h
  · rw [hlda]
    rfl
  · rfl
  · rfl
  · rfl

/-- In a cycle the default advance is never suppressed, since execute leaves PC where fetch put it. -/
theorem defaultAdvance_of_exec {i : Instr} {s t : State} (length : Nat)
    (h : exec i (s.writeRunState .running).fetch = .next t) :
    defaultAdvance (add16 s.pc 1) length t = t.writePc (add16 t.pc (BitVec.ofNat 16 length)) :=
  defaultAdvance_of_eq length (exec_pc h)

/-- Settles O31: the frame of every instruction, and by its kind the registers it does not write. -/
theorem instructionsWriteOnlyTheirOwn : Obligations.InstructionsWriteOnlyTheirOwn := by
  intro i s t h
  have hrunState : i.operation.mnemonic ≠ .brk → t.runState = s.runState := fun hbrk => by
    rw [exec_runState h, if_neg hbrk]
  refine ⟨exec_frame h, exec_pc h, ?_⟩
  obtain ⟨hlda, v, rfl⟩ | ⟨rfl, rfl⟩ | ⟨rfl, rfl⟩ | ⟨rfl, rfl⟩ := exec_next_cases h
  · exact ⟨fun hne => absurd hlda hne, fun _ => rfl, by simp [hlda], hrunState⟩
  · exact ⟨fun _ => rfl, nofun, nofun, hrunState⟩
  · exact ⟨fun _ => rfl, nofun, nofun, hrunState⟩
  · exact ⟨fun _ => rfl, fun _ => rfl, fun _ => ⟨rfl, rfl⟩, hrunState⟩

/-- Settles O33: bytes that decode begin with a mapped byte, at which the operand decoded is the one the resolver reads. -/
theorem execAgreesWithTheResolver : Obligations.ExecAgreesWithTheResolver := by
  intro s i rest h
  obtain ⟨b, hb, hbytes⟩ := decode_ok h
  have hop : decodeOpcode s.opcode = some i.operation := by
    rw [State.opcode, (List.cons.inj hbytes).1, hb]
  obtain ⟨j, rest', hdecode, -, hexec⟩ := decode_fetchBytes_of_mapped hop
  cases h.symm.trans hdecode
  exact hexec

/-- Settles O34: the cycle unfolded at bytes that decode, whose execute step answers a state with PC as fetch left it. -/
theorem stepRunsTheDecodedInstruction : Obligations.StepRunsTheDecodedInstruction := by
  intro s i rest ⟨hlatch, hreset, hhalted⟩ _ hdecode
  have hdecode' : decode (s.writeRunState .running).fetchBytes = .ok (i, rest) := hdecode
  have hfetched : { s with pc := add16 s.pc 1, runState := .running } = (s.writeRunState .running).fetch := rfl
  obtain ⟨t, ht⟩ := exec_answers i (s.writeRunState .running).fetch
  rw [step_of_not_halted hlatch hreset hhalted, hfetched]
  simp only [cycle, hdecode', ht]
  exact (congrArg _ (defaultAdvance_of_exec _ ht)).trans (if_pos (exec_pc ht)).symm

/-! ### The cycle of a mapped opcode -/

/-- A cycle without operand bytes whose execute step leaves PC alone ends where the execute step does. -/
theorem step_of_mapped_none {s t : State} {op : Operation} (hs : s.Ready) (hop : decodeOpcode s.opcode = some op)
    (hmode : op.mode = .none) (ht : executeOperation op (s.writeRunState .running).fetch = .next t)
    (hpc : t.pc = add16 s.pc 1) : step s = .next t := by
  have hadvance : add16 t.pc (BitVec.ofNat 16 (operandLength .none)) = t.pc := BitVec.add_zero _
  rw [step_of_mapped hs hop ht, hmode, defaultAdvance_of_eq _ hpc, hadvance]
  rfl

/-- What the single step returns once the step has answered without a fault (45_instruction_cycle.md R130). -/
theorem hostSingleStep_of_next {s t : State} (h : step s = .next t) (hl : t.faultLatch = none) :
    hostSingleStep s = .next (t, .value (if t.runState = .halted then .halted else .continuing)) := by
  simp only [hostSingleStep, h, hl]

/-- Settles O28: the execute step writes the run state only, and the cycle moves PC past the opcode byte besides. -/
theorem brkHalts : Obligations.BrkHalts := by
  refine ⟨fun s => ⟨s.writeRunState .halted, rfl, rfl, rfl, rfl, rfl, rfl, (CommonFrame.refl s).writeRunState _⟩,
    fun s hs hop => ?_⟩
  have hbrk : decodeOpcode s.opcode = some ⟨.brk, .none⟩ := by rw [hop]; rfl
  have hstep : step s = .next ((s.writePc (add16 s.pc 1)).writeRunState .halted) :=
    step_of_mapped_none hs hbrk rfl rfl rfl
  exact ⟨_, hstep, hostSingleStep_of_next hstep hs.1, rfl, add16_one_toNat s.pc, rfl, rfl, rfl,
    ((CommonFrame.refl s).writePc _).writeRunState _⟩

/-- A step at a mapped opcode completes its cycle: the latch stays None, and the core is running unless the opcode is
BRK's (45_instruction_cycle.md R124). -/
theorem step_of_mapped_answers {s : State} {op : Operation} (hs : s.Ready) (hop : decodeOpcode s.opcode = some op) :
    ∃ t, step s = .next t ∧ t.faultLatch = none ∧ t.runState = if op.mnemonic = .brk then .halted else .running := by
  obtain ⟨i, rest, -, rfl, hoperation⟩ := decode_fetchBytes_of_mapped (s := s.writeRunState .running) hop
  obtain ⟨u, hexec⟩ := exec_answers i (s.writeRunState .running).fetch
  refine ⟨_, step_of_mapped hs hop (hoperation.symm.trans hexec), ?_⟩
  rw [defaultAdvance_of_exec _ hexec]
  exact ⟨(exec_frame hexec).faultLatch.trans hs.1, exec_runState hexec⟩

/-- Settles O40: the completed cycle, and what the single step returns for its run state. -/
theorem mappedOpcodesComplete : Obligations.MappedOpcodesComplete := by
  intro s op hs hop
  obtain ⟨t, hstep, hlatch, hrunState⟩ := step_of_mapped_answers hs hop
  refine ⟨t, hstep, hlatch, ?_⟩
  rw [hostSingleStep_of_next hstep hlatch, hrunState]
  by_cases hbrk : op.mnemonic = .brk
  · simp only [if_pos hbrk, if_true]
  · simp only [if_neg hbrk, reduceCtorEq, if_false]

/-! ### The cycle at an unmapped byte -/

/-- The bytes without a row are those of the ten ranges (30_encoding.md R58). -/
theorem decodeOpcode_eq_none_iff (b : Byte) : decodeOpcode b = none ↔ UnmappedOpcode b := by
  have hb := b.isLt
  simp only [decodeOpcode, Option.map_eq_none_iff, List.find?_eq_none, opcodeTable, List.forall_mem_cons, beq_iff_eq,
    BitVec.toNat_eq, BitVec.ofNat_eq_ofNat, BitVec.toNat_ofNat, List.not_mem_nil, false_imp_iff, implies_true,
    and_true, UnmappedOpcode]
  omega

/-- At an unmapped byte the cycle ends at dispatch: PC is past the byte and the latch names it and its address
(45_instruction_cycle.md R122). -/
theorem step_of_unmapped {s : State} (hs : s.Ready) (h : UnmappedOpcode s.opcode) :
    step s = .next ((s.writeRunState .running).fetch.raise (.unknownOpcode s.opcode s.pc)) := by
  obtain ⟨hlatch, hreset, hhalted⟩ := hs
  have hdecode : decode (s.writeRunState .running).fetchBytes = .error (.unknownOpcode s.opcode) := by
    have hnone := (decodeOpcode_eq_none_iff s.opcode).mpr h
    rw [State.opcode] at hnone ⊢
    simp only [State.fetchBytes, decode, State.writeRunState_mem, State.writeRunState_pc, hnone]
  rw [step_of_not_halted hlatch hreset hhalted]
  simp only [cycle, hdecode]
  rfl

/-- The latch after that cycle: the fault, since the core was ready and so its latch None. -/
theorem faultLatch_raise_of_ready {s : State} (hs : s.Ready) (f : Fault) :
    ((s.writeRunState .running).fetch.raise f).faultLatch = some f := by
  simp [hs.1]

/-- Settles O35: the ranges are the bytes without a row, and the cycle at one of them latches the fault. -/
theorem unmappedBytesRaiseUnknownOpcode : Obligations.UnmappedBytesRaiseUnknownOpcode :=
  ⟨decodeOpcode_eq_none_iff, fun _ hs h => ⟨_, _, step_of_unmapped hs h, faultLatch_raise_of_ready hs _⟩⟩

/-- Settles O36: raising writes the latch only, and a latched core answers its fault. -/
theorem unknownOpcodeIsPrecise : Obligations.UnknownOpcodeIsPrecise :=
  fun s hs h => ⟨_, step_of_unmapped hs h, add16_one_toNat s.pc, rfl, rfl, rfl, rfl, rfl, rfl,
    step_of_latched (faultLatch_raise_of_ready hs _)⟩

/-! ### Every step -/

/-- The only fault a step latches is UnknownOpcode (60_exceptions.md R141). -/
theorem step_faultLatch {s t : State} (h : step s = .next t) :
    t.faultLatch = none ∨ t.faultLatch = some (.unknownOpcode s.opcode s.pc) := by
  obtain ⟨hlatch, -, ⟨-, rfl⟩ | ⟨-, -, rfl⟩ | ⟨-, i, rest, u, -, hexec, rfl⟩⟩ := step_next_cases h
  · exact .inl hlatch
  · exact .inr (by simp [hlatch, State.opcode])
  · rw [defaultAdvance_of_exec _ hexec]
    exact .inl ((exec_frame hexec).faultLatch.trans hlatch)

/-- A step that leaves the core halted leaves it as a further step finds it: no fault, and a reset was performed. -/
theorem step_of_step_halted {s t : State} (h : step s = .next t) (ht : t.runState = .halted) : step t = .next t := by
  obtain ⟨hlatch, hreset, ⟨-, rfl⟩ | ⟨-, -, rfl⟩ | ⟨-, i, rest, u, -, hexec, rfl⟩⟩ := step_next_cases h
  · exact h
  · cases ht
  · have hframe := exec_frame hexec
    rw [defaultAdvance_of_exec _ hexec] at ht ⊢
    exact step_of_halted (hframe.faultLatch.trans hlatch) (hframe.wasReset.trans hreset) ht

/-- BRK's row is the one of the byte 0x00 (30_encoding.md R55). -/
theorem mnemonic_eq_brk_iff {b : Byte} {op : Operation} (h : decodeOpcode b = some op) :
    op.mnemonic = .brk ↔ b = 0x00 := by
  have hrows : ∀ row ∈ opcodeTable, row.operation.mnemonic = .brk ↔ row.opcode = 0x00 := by decide
  exact hrows _ (mem_opcodeTable_of_decodeOpcode h)

/-- Settles O37: at an unmapped byte the core is running, at a mapped one it is halted if the row is BRK's. -/
theorem haltedExactlyOnBrk : Obligations.HaltedExactlyOnBrk := by
  refine fun s t hs hstep => ⟨?_, step_of_step_halted hstep⟩
  cases hop : decodeOpcode s.opcode with
  | none =>
    have hbrk : s.opcode ≠ 0x00 := fun e => by rw [e] at hop; cases hop
    cases hstep.symm.trans (step_of_unmapped hs ((decodeOpcode_eq_none_iff _).mp hop))
    exact iff_of_false nofun hbrk
  | some op =>
    obtain ⟨u, hu, -, hrunState⟩ := step_of_mapped_answers hs hop
    cases hstep.symm.trans hu
    rw [hrunState, ← mnemonic_eq_brk_iff hop]
    by_cases hbrk : op.mnemonic = .brk <;> simp [hbrk]

/-- Settles O17: LDA asks the resolver, which fails on None; and a step latches UnknownOpcode only. -/
theorem unsupportedModeIsNeverReached : Obligations.UnsupportedModeIsNeverReached := by
  refine ⟨fun s hl => ?raised, fun s t mode hstep hlatch => ?never⟩
  case raised =>
    have hraise : executeOperation ⟨.lda, .none⟩ s = .next (s.raise (.unsupportedAddressingMode .none)) := rfl
    rw [hraise, State.raise, hl, Option.getD_none]
  case never => rcases step_faultLatch hstep with h | h <;> cases h.symm.trans hlatch

/-- Settles O12: out of range each load raises its fault on a latch that is None; and a step latches UnknownOpcode only. -/
theorem loadOutOfRangeIsTheHostsFault : Obligations.LoadOutOfRangeIsTheHostsFault := by
  refine ⟨fun s offset bytes hl hrange => ?raised, fun s t offset length hstep hlatch => ?never⟩
  case raised =>
    rw [hostBusLoad, hostLoadAt, State.accept_of_none hl, State.accept_of_none hl, State.busLoad_of_gt hrange,
      State.engineLoad_of_gt hrange]
    have hlatch : (s.raise (.loadOutOfRange offset bytes.length)).faultLatch =
        some (.loadOutOfRange offset bytes.length) := by simp [hl]
    exact ⟨⟨_, rfl, hlatch, rfl⟩, ⟨_, rfl, hlatch, rfl⟩⟩
  case never => rcases step_faultLatch hstep with h | h <;> cases h.symm.trans hlatch

end Sys2Proof.Machine

/-!
PROOFS. Runs (45_instruction_cycle.md section 2): `run()` as repeated steps, the end of a run, and what a run that goes on
has fetched.
-/

namespace Sys2Proof.Machine

/-! ### The end of a run -/

/-- Any number of steps from a state whose step changes nothing. -/
theorem core_run_of_step_self {s : State} (h : step s = .next s) (k : Nat) :
    Host.Core.run Sys2Proof.core k s = .next s := by
  induction k with
  | zero => rfl
  | succ k ih =>
    rw [core_run_succ]
    simp only [h, ih]

/-- Settles O41: where `run()` stops at a halted core, the further steps of the machine change nothing. -/
theorem runIsRepeatedSingleStep : Obligations.RunIsRepeatedSingleStep := by
  intro fuel
  induction fuel with
  | zero => exact fun _ => rfl
  | succ fuel ih =>
    intro s
    rw [hostRun_succ, core_run_succ]
    cases hstep : step s with
    | fault f => rfl
    | refused r => rfl
    | next t =>
      by_cases ht : t.runState = .halted
      · exact (if_pos ht).trans (core_run_of_step_self (step_of_step_halted hstep ht) fuel).symm
      · exact (if_neg ht).trans (ih t)

/-- Settles O42: the step of a halted core changes nothing, so neither do many steps, and a run is many steps. -/
theorem endedIsFinal : Obligations.EndedIsFinal := by
  intro s k hreset ⟨hhalted, hlatch⟩
  have hstep : step s = .next s := step_of_halted hlatch hreset hhalted
  have hrun := core_run_of_step_self hstep k
  refine ⟨hrun, (runIsRepeatedSingleStep k s).trans hrun, ?_⟩
  rw [hostSingleStep_of_next hstep hlatch, if_pos hhalted]

/-! ### A run that goes on -/

/-- The first of the steps of a run that answers, and the run after it. -/
theorem exists_step_of_core_run_succ {k : Nat} {s t : State} (h : Host.Core.run Sys2Proof.core (k + 1) s = .next t) :
    ∃ u, step s = .next u ∧ Host.Core.run Sys2Proof.core k u = .next t := by
  rw [core_run_succ] at h
  cases hstep : step s with
  | next u => exact ⟨u, rfl, by simpa only [hstep] using h⟩
  | fault f => simp only [hstep, reduceCtorEq] at h
  | refused r => simp only [hstep, reduceCtorEq] at h

/-- A run that leaves the core ready started from a ready core: a halted one would stay halted. -/
theorem ready_of_core_run {k : Nat} {s t : State} (h : Host.Core.run Sys2Proof.core k s = .next t) (ht : t.Ready) :
    s.Ready := by
  cases k with
  | zero =>
    cases h
    exact ht
  | succ k =>
    obtain ⟨u, hstep, -⟩ := exists_step_of_core_run_succ h
    obtain ⟨hlatch, hreset, -⟩ := step_next_cases hstep
    refine ⟨hlatch, hreset, fun hhalted => ?_⟩
    cases h.symm.trans (core_run_of_step_self (step_of_halted hlatch hreset hhalted) (k + 1))
    exact ht.2.2 hhalted

/-- A step between ready states has fetched a mapped opcode other than BRK: any other byte latches the fault, and BRK
halts. -/
theorem mapped_of_step_ready {s t : State} (hs : s.Ready) (hstep : step s = .next t) (ht : t.Ready) :
    ∃ op, decodeOpcode s.opcode = some op ∧ op.mnemonic ≠ .brk := by
  obtain ⟨hlatch, -, hrunning⟩ := ht
  cases hop : decodeOpcode s.opcode with
  | none =>
    cases hstep.symm.trans (step_of_unmapped hs ((decodeOpcode_eq_none_iff _).mp hop))
    cases hlatch
  | some op =>
    have hbrk := fun h => hrunning ((haltedExactlyOnBrk s t hs hstep).1.mpr ((mnemonic_eq_brk_iff hop).mp h))
    exact ⟨op, rfl, hbrk⟩

/-- Settles O43: the first cycle leads to a state the rest of the run leaves ready, so it was ready, and so on. -/
theorem endlessRunsFetchMappedOpcodes : Obligations.EndlessRunsFetchMappedOpcodes := by
  intro k
  induction k with
  | zero => exact fun _ _ _ _ _ j hj => absurd hj (Nat.not_lt_zero j)
  | succ k ih =>
    intro s t hs hrun ht j hj
    obtain ⟨u, hstep, hrest⟩ := exists_step_of_core_run_succ hrun
    have hu : u.Ready := ready_of_core_run hrest ht
    cases j with
    | zero =>
      obtain ⟨op, hop, hbrk⟩ := mapped_of_step_ready hs hstep hu
      exact ⟨s, op, rfl, hs, hop, hbrk⟩
    | succ j =>
      obtain ⟨v, op, hv, hcycle⟩ := ih u t hu hrest ht j (Nat.lt_of_succ_lt_succ hj)
      refine ⟨v, op, ?_, hcycle⟩
      rw [core_run_succ]
      simp only [hstep]
      exact hv

end Sys2Proof.Machine

/-!
PROOFS. The host (70_reset_and_hazards.md): when an operation, a view and a peek are accepted, what reset leaves, the
engine-level load as memory, and the boot that loads, resets and runs.
-/

namespace Sys2Proof.Machine

/-! ### What is accepted when -/

/-- With the latch None a peek is answered, before the first reset too. -/
theorem State.reply_of_none {α : Type} {s : State} (h : s.faultLatch = none) (v : α) : s.reply v = .value v := by
  simp only [State.reply, h]

/-- After a reset, with the latch None, a view is answered (10_state.md R28). -/
theorem State.view_of_reset {α : Type} {s : State} (hl : s.faultLatch = none) (hw : s.wasReset = true) (v : α) :
    s.view v = .value v := by
  simp only [State.view, hl, hw, if_true]

/-- Before the first reset a view is refused (10_state.md R28). -/
theorem State.view_of_not_reset {α : Type} {s : State} (hl : s.faultLatch = none) (hw : s.wasReset = false) (v : α) :
    s.view v = .refused .notReset := by
  simp [State.view, hl, hw]

/-- A run starts with a step, so a step that answers no state ends it. -/
theorem hostRun_succ_of_fault {s : State} {f : Fault} (h : step s = .fault f) (fuel : Nat) :
    hostRun (fuel + 1) s = .fault f := by
  rw [hostRun_succ, h]

theorem hostRun_succ_of_refused {s : State} {r : Refusal} (h : step s = .refused r) (fuel : Nat) :
    hostRun (fuel + 1) s = .refused r := by
  rw [hostRun_succ, h]

/-- Settles O44: each operation, each view and each peek asks for the latch first. -/
theorem latchedCoreAcceptsNothing : Obligations.LatchedCoreAcceptsNothing := by
  intro s f hl
  have hstep : step s = .fault f := step_of_latched hl
  have hsingle : hostSingleStep s = .fault f := by simp only [hostSingleStep, hstep]
  have haccept (t : State) : s.accept t = .fault f := State.accept_of_latched hl t
  have hview {α : Type} (v : α) : s.view v = .fault f := State.view_of_latched hl v
  have hreply {α : Type} (v : α) : s.reply v = .fault f := State.reply_of_latched hl v
  have hact (op : HostOp) : hostAct op s = .fault f := by
    cases op with
    | reset | load | busLoad | write | writeWord => exact haccept _
    | singleStep => exact hstep
    | run fuel => exact hostRun_succ_of_fault hstep fuel
    | loadAndRun origin bytes fuel => exact hostLoadAndRunAt_of_latched hl origin bytes (fuel + 1)
  exact ⟨hstep, hact, hsingle, hview _, hview _, hview _, hview _, fun _ => hview _, hview _, fun _ => hreply _,
    fun _ => hreply _⟩

/-- Settles O45: a step and a view ask for a reset; a peek, a poke and the reset itself do not. -/
theorem runIsRefusedBeforeReset : Obligations.RunIsRefusedBeforeReset := by
  intro s hl hw
  have hstep : step s = .refused .notReset := step_of_not_reset hl hw
  have hsingle : hostSingleStep s = .refused .notReset := by simp only [hostSingleStep, hstep]
  have hview {α : Type} (v : α) : s.view v = .refused .notReset := State.view_of_not_reset hl hw v
  exact ⟨hstep, hostRun_succ_of_refused hstep, hsingle, hview _, hview _, hview _, hview _, fun _ => hview _, hview _,
    fun _ => State.reply_of_none hl _, fun _ _ => State.accept_of_none hl _,
    ⟨_, State.accept_of_none hl _, hl, rfl, nofun⟩⟩

/-- Settles O51: with the latch None after a reset every view and every peek is answered. -/
theorem viewsAnswerTheRegisters : Obligations.ViewsAnswerTheRegisters := by
  intro s hl hw
  have hview {α : Type} (v : α) : s.view v = .value v := State.view_of_reset hl hw v
  exact ⟨hview _, hview _, hview _, hview _, hview _, fun _ => hview _, fun _ => State.reply_of_none hl _,
    fun _ => State.reply_of_none hl _⟩

/-! ### Reset -/

/-- Settles O46: the registers reset writes, and PC as the word at the vector. -/
theorem resetZeroesAndTakesTheVector : Obligations.ResetZeroesAndTakesTheVector := by
  intro s hl
  refine ⟨s.applyReset, State.accept_of_none hl _, rfl, rfl, rfl, rfl, fun f => flagOf_zero f, ?pc, rfl, rfl, hl, rfl⟩
  case pc => exact wordReadIsLittleEndian s.mem resetVector

/-- Settles O47: reset overwrites every register, and with nothing listed both cells of the vector read 0xFF. -/
theorem resetStateComesFromPowerOn : Obligations.ResetStateComesFromPowerOn :=
  ⟨fun _ _ _ _ _ => rfl, rfl⟩

/-! ### Pokes and loads -/

/-- Settles O55: each poke is accepted, and the bus load in range is the copy. -/
theorem hostPokesWriteTheirCells : Obligations.HostPokesWriteTheirCells := by
  intro s hl
  refine ⟨fun a v => State.accept_of_none hl _, fun a v => State.accept_of_none hl _, fun offset bytes hrange => ?_⟩
  have hload : s.busLoad offset bytes = { s with mem := Memory.copy s.mem offset bytes } := State.busLoad_of_le hrange
  exact ⟨(State.accept_of_none hl _).trans (congrArg _ hload), hload⟩

/-- Settles O50: the written cell reads what was written, and the cycle at an unmapped byte latches the fault. -/
theorem pokeIsSeenByTheNextFetch : Obligations.PokeIsSeenByTheNextFetch := by
  intro s v hs
  have hopcode : (s.writeMem (Memory.write s.mem s.pc v)).opcode = v := Memory.read_write_self s.mem s.pc v
  have hready : (s.writeMem (Memory.write s.mem s.pc v)).Ready := hs
  refine ⟨_, State.accept_of_none hs.1 _, hready, hopcode, rfl, fun hv => ?_⟩
  obtain ⟨-, hraised⟩ := unmappedBytesRaiseUnknownOpcode
  simpa only [hopcode] using hraised _ hready (hopcode.symm ▸ hv)

/-- The engine-level load in range is accepted and is the copy, then the vector (70_reset_and_hazards.md R164). -/
theorem hostLoadAt_of_le {s : State} {origin : Addr} {bytes : List Byte} (hl : s.faultLatch = none)
    (h : origin.toNat + bytes.length ≤ 65536) :
    hostLoadAt origin bytes s =
      .next (s.writeMem (Memory.writeWord (Memory.copy s.mem origin bytes) resetVector origin)) := by
  rw [hostLoadAt, State.accept_of_none hl, State.engineLoad_of_le hl h]

/-- The vector write leaves every cell but the vector's two (70_reset_and_hazards.md R164). -/
theorem Memory.read_writeWord_resetVector_of_ne (m : Memory) {b : Addr} (v : Addr) (hlow : b.toNat ≠ 0xFFFC)
    (hhigh : b.toNat ≠ 0xFFFD) : Memory.read (Memory.writeWord m resetVector v) b = Memory.read m b :=
  Memory.read_writeWord_of_ne m v (fun h => hlow (congrArg BitVec.toNat h)) (fun h => hhigh (congrArg BitVec.toNat h))

/-- Settles O48: the vector is written last, so it holds the origin, and every other cell is as the copy left it. -/
theorem engineLoadPlacesProgramAndVector : Obligations.EngineLoadPlacesProgramAndVector := by
  intro s origin bytes hl hrange
  refine ⟨_, hostLoadAt_of_le hl hrange, Memory.readWord_writeWord_self _ _ _, fun n h hlow hhigh => ?program,
    fun b houtside hlow hhigh => ?other, rfl⟩
  case program =>
    have hcell : (BitVec.ofNat 16 (origin.toNat + n)).toNat = origin.toNat + n := Nat.mod_eq_of_lt (by omega)
    exact (Memory.read_writeWord_resetVector_of_ne _ _ (by rwa [hcell]) (by rwa [hcell])).trans
      (Memory.read_copy_getElem bytes s.mem origin n h hrange)
  case other =>
    exact (Memory.read_writeWord_resetVector_of_ne _ _ hlow hhigh).trans
      (Memory.read_copy_of_outside b bytes s.mem origin hrange houtside)

/-! ### Boot -/

/-- Settles O49: reset takes PC from the vector the load wrote; at rest loadAndRun is a run from there. -/
theorem bootEntersAtTheOrigin : Obligations.BootEntersAtTheOrigin := by
  refine ⟨fun s origin bytes hl hrange => ?boot, fun s origin bytes fuel hl hrunning => ?refused⟩
  case boot =>
    have hload := hostLoadAt_of_le hl hrange
    have hboot : andThen (hostLoadAt origin bytes s) hostReset = .next
        (s.writeMem (Memory.writeWord (Memory.copy s.mem origin bytes) resetVector origin)).applyReset := by
      rw [hload]
      exact State.accept_of_none hl _
    refine ⟨_, hboot, ⟨hl, rfl, nofun⟩, Memory.readWord_writeWord_self _ _ _, rfl, rfl, rfl, rfl, fun hrest fuel => ?_⟩
    rw [hostLoadAndRunAt_at_rest hl hrest, loadResetRun, hboot]
    rfl
  case refused => simp only [hostLoadAndRunAt, hl, hrunning]

end Sys2Proof.Machine
